-- ==== Sys2Proof/Word.lean ====
section
/-! DEFINITION. The value types of the unit: u256, Fe, register indices, and eight lanes (spec/00_scope.md R6, R11). -/

namespace Sys2Proof

/-- R11: a u256, what every host-visible register holds. -/
abbrev U256 := BitVec 256

/-- R50: an index of the host register index space, 0x000 to 0x3FF. -/
abbrev Index := BitVec 10

/-- R6: the modulus F. -/
abbrev F : Nat :=
  21888242871839275222246405745257275088548364400416034343698204186575808495617

/-- R11: an Fe, a canonical field element: a natural in [0, F). -/
abbrev Fe := Fin F

/-- Eight like things, one per lane 0..7 (R13). -/
structure Lanes (α : Type) where
  l0 : α
  l1 : α
  l2 : α
  l3 : α
  l4 : α
  l5 : α
  l6 : α
  l7 : α
  deriving DecidableEq, Repr, Inhabited

namespace Lanes

/-- Lane `k`. -/
def get {α : Type} (v : Lanes α) (k : Fin 8) : α :=
  match k with
  | 0 => v.l0
  | 1 => v.l1
  | 2 => v.l2
  | 3 => v.l3
  | 4 => v.l4
  | 5 => v.l5
  | 6 => v.l6
  | 7 => v.l7

/-- `v` with lane `k` replaced by `x`. -/
def set {α : Type} (v : Lanes α) (k : Fin 8) (x : α) : Lanes α :=
  match k with
  | 0 => { v with l0 := x }
  | 1 => { v with l1 := x }
  | 2 => { v with l2 := x }
  | 3 => { v with l3 := x }
  | 4 => { v with l4 := x }
  | 5 => { v with l5 := x }
  | 6 => { v with l6 := x }
  | 7 => { v with l7 := x }

/-- The lanes `f 0`, ..., `f 7`. -/
def ofFn {α : Type} (f : Fin 8 → α) : Lanes α :=
  ⟨f 0, f 1, f 2, f 3, f 4, f 5, f 6, f 7⟩

/-- The same value in every lane. -/
def const {α : Type} (x : α) : Lanes α := ⟨x, x, x, x, x, x, x, x⟩

/-- `f` lane by lane. -/
def map {α β : Type} (f : α → β) (v : Lanes α) : Lanes β :=
  ⟨f v.l0, f v.l1, f v.l2, f v.l3, f v.l4, f v.l5, f v.l6, f v.l7⟩

/-- `f` on the pairs of equal lanes. -/
def zipWith {α β γ : Type} (f : α → β → γ) (v : Lanes α) (w : Lanes β) : Lanes γ :=
  ⟨f v.l0 w.l0, f v.l1 w.l1, f v.l2 w.l2, f v.l3 w.l3,
   f v.l4 w.l4, f v.l5 w.l5, f v.l6 w.l6, f v.l7 w.l7⟩

/-- Does `p` hold of every lane? -/
def all {α : Type} (p : α → Bool) (v : Lanes α) : Bool :=
  p v.l0 && p v.l1 && p v.l2 && p v.l3 && p v.l4 && p v.l5 && p v.l6 && p v.l7

end Lanes

end Sys2Proof
end

