-- ==== Sys2Proof/Config.lean ====
section
/-! DEFINITION. The constants of the unit (spec/00_scope.md R6), its configuration ROM (spec/10_state.md R35, R36), and the free values, which have no body. -/

namespace Sys2Proof

/-- The configuration of one unit: the round-constant ROM (R35, 56 rows of 8 u256, padding entries
included) and the diffusion-vector ROM (R36). Entry RC[r][i] is `(rc[r]).get i`. -/
structure Rom where
  rc : Vector (Lanes U256) 56
  d  : Lanes U256
  deriving DecidableEq, Repr, Inhabited

/-- The two byte orders a bridge to a byte-addressed bus may have (R55). -/
inductive ByteOrder where
  | littleEndian
  | bigEndian
  deriving DecidableEq, Repr, Inhabited

namespace Config

/-- R6: number of lanes T. -/
def width : Nat := 8

/-- R6: full rounds in total, R_F. -/
def fullRounds : Nat := 8

/-- R6: partial rounds R_P. -/
def partialRounds : Nat := 48

/-- R6: rounds in total, R = R_F + R_P. -/
def rounds : Nat := 56

/-- R6: the S-box exponent ALPHA. -/
def alpha : Nat := 7

/-- R6: number of hash inputs. -/
def hashInputs : Nat := 7

/-- R6, R170: the domain tag TAG of lane 7. -/
def tag : Fe := ⟨129127208515966861312, by decide⟩

/-- R9 (RC, D): the contents the ROMs of this unit were loaded with before reset was released
(R202). The spec gives no value: a free value, log entry 2. -/
opaque unitRom : Rom

/-- R52, R207 (`draw()`): the value of the n-th host read when that read is one the spec leaves
unspecified. A free value, log entry 3. -/
opaque draw : Nat → U256

/-- R9, R55 (BRIDGE_BYTE_ORDER): the byte order of a bridge, if there is one. A free value, log
entry 15. -/
opaque bridgeByteOrder : ByteOrder

end Config

end Sys2Proof
end

