-- ==== Sys2Proof/Syntax.lean ====
section
/-! DEFINITION. The nine commands (spec/30_encoding.md R83), the named registers (spec/20_memory.md R51), the inputs of the unit, and the host's assembly language (spec/30_encoding.md R86, R87). -/

namespace Sys2Proof

/-- R83: the nine commands, one per row of spec/opcode_table.json. No command has an operand field
(R80). -/
inductive Instr where
  /-- FADD, R103. -/
  | fadd
  /-- FMUL, R104. -/
  | fmul
  /-- SBOX, R105. -/
  | sbox
  /-- EXTL, R128. -/
  | extl
  /-- INTL, R129. -/
  | intl
  /-- PSTART, R145. -/
  | pstart
  /-- PSTEP, R146. -/
  | pstep
  /-- PERMUTE, R147. -/
  | permute
  /-- HASH, R171. -/
  | hash
  deriving DecidableEq, Repr, Inhabited

/-- R51, R86: the named registers of the host register index space. -/
inductive Reg where
  /-- IN[k]. -/
  | inp (k : Fin 8)
  /-- ST[k]. -/
  | st (k : Fin 8)
  | fres
  | cmd
  | status
  | sched
  | params
  /-- RC[r][i]. -/
  | rc (r : Fin 56) (i : Fin 8)
  /-- D[i]. -/
  | d (i : Fin 8)
  deriving DecidableEq, Repr, Inhabited

/-- What reaches the unit from outside, and the turns of the unit between (R61, R200): log entry 4. -/
inductive Input where
  /-- `MemRead(idx, 32)`, R52. -/
  | read (idx : Index)
  /-- `MemWrite(idx, 32, v)`, R53. -/
  | write (idx : Index) (v : U256)
  /-- The reset input, R200. -/
  | reset
  /-- The unit moves: the interleaving gives it this turn (R61). -/
  | unitTurn
  deriving DecidableEq, Repr, Inhabited

namespace Asm

/-- R86: what `wr` writes, a literal or a host variable. -/
inductive Operand where
  | lit (v : U256)
  | var (x : String)
  deriving DecidableEq, Repr, Inhabited

/-- R86: a condition over host variables: the field `x[hi:lo]` equals (`eq`), or does not equal, a
literal. Log entry 16. -/
structure Cond where
  x     : String
  hi    : Nat
  lo    : Nat
  equal : Bool
  lit   : Nat
  deriving DecidableEq, Repr, Inhabited

/-- R86: the base statements of the host assembly. -/
inductive Stmt where
  | wr (reg : Reg) (v : Operand)
  | rd (x : String) (reg : Reg)
  | label (l : String)
  | goto (l : String)
  | ifGoto (c : Cond) (l : String)
  deriving DecidableEq, Repr, Inhabited

/-- R87: the pseudo-instructions. Where the expansion has a wait loop, `t` and `lw` are the fresh
host variable and the fresh label it uses. -/
inductive Pseudo where
  | cmd (i : Instr)
  | wait (t lw : String)
  | run (i : Instr) (t lw : String)
  | ld8 (v : Lanes Operand)
  | hash7 (v0 v1 v2 v3 v4 v5 v6 : Operand) (t lw : String)
  | chk (x : String)
  deriving DecidableEq, Repr, Inhabited

end Asm

end Sys2Proof
end

