-- ==== Sys2Proof/WellFormed.lean ====
section
/-! DEFINITION. Which terms of the syntax are well formed: commands (none can be ill formed, spec/30_encoding.md R80) and host programs (spec/30_encoding.md R86). -/

namespace Sys2Proof

/-- R80: a command has no operand field, so every term of `Instr` is well formed. -/
def Instr.wf (i : Instr) : Bool :=
  match i with
  | .fadd => true
  | .fmul => true
  | .sbox => true
  | .extl => true
  | .intl => true
  | .pstart => true
  | .pstep => true
  | .permute => true
  | .hash => true

namespace Asm

/-- R12: a field `x[hi:lo]` of a u256 lies inside the 256 bits and is not empty, and the literal it
is compared with fits it. -/
def Cond.wf (c : Cond) : Bool :=
  decide (c.lo ≤ c.hi) && decide (c.hi < 256) && decide (c.lit < 2 ^ (c.hi - c.lo + 1))

/-- The labels a list of statements declares. -/
def labels : List Stmt → List String
  | [] => []
  | .label l :: rest => l :: labels rest
  | _ :: rest => labels rest

/-- R86: every condition is well formed and every jump names a declared label. -/
def Stmt.wf (declared : List String) (st : Stmt) : Bool :=
  match st with
  | .wr _ _ => true
  | .rd _ _ => true
  | .label _ => true
  | .goto l => declared.contains l
  | .ifGoto c l => c.wf && declared.contains l

/-- A host program is well formed: no label twice, and every statement well formed. -/
def programWf (p : List Stmt) : Bool :=
  decide (labels p).Nodup && p.all (Stmt.wf (labels p))

end Asm

end Sys2Proof
end

