-- ==== Sys2Proof/Decode.lean ====
section
/-! DEFINITION. The command word (spec/30_encoding.md R80 to R84): its decoder, total and rejecting by name, and its encoder. -/

namespace Sys2Proof

/-- R80: the opcode field OPC, bits [7:0]. -/
def opcField (w : U256) : BitVec 8 := w.extractLsb' 0 8

/-- R80: the reserved field RSV, bits [255:8]. -/
def rsvField (w : U256) : BitVec 248 := w.extractLsb' 8 248

/-- R84: why a word is no command. -/
inductive IllegalWord where
  /-- RSV ≠ 0. -/
  | reservedBits
  /-- OPC = 0x00, illegal on purpose. -/
  | opcodeZero
  /-- OPC in 0x0A to 0xFF. -/
  | opcodeUnassigned (opc : BitVec 8)
  deriving DecidableEq, Repr

/-- R83: the opcode map, read from the number. -/
def instrOfOpcode (opc : Nat) : Option Instr :=
  match opc with
  | 0x01 => some .fadd
  | 0x02 => some .fmul
  | 0x03 => some .sbox
  | 0x04 => some .extl
  | 0x05 => some .intl
  | 0x06 => some .pstart
  | 0x07 => some .pstep
  | 0x08 => some .permute
  | 0x09 => some .hash
  | _ => none

/-- R81, R84: the command a word is, or why it is none. Only RSV and OPC are looked at. -/
def decode (w : U256) : Except IllegalWord Instr :=
  if rsvField w ≠ 0 then .error .reservedBits
  else if opcField w = 0 then .error .opcodeZero
  else
    match instrOfOpcode (opcField w).toNat with
    | some i => .ok i
    | none => .error (.opcodeUnassigned (opcField w))

/-- The instruction a row of spec/opcode_table.json stands for: a command word has 256 bits, so a
number with more is no word. -/
def decodeTableWord (nbits w : Nat) : Option Instr :=
  if w % 2 ^ nbits < 2 ^ 256 then (decode (BitVec.ofNat 256 (w % 2 ^ nbits))).toOption else none

/-- R83: the opcode of each command. -/
def opcode (i : Instr) : BitVec 8 :=
  match i with
  | .fadd => 0x01
  | .fmul => 0x02
  | .sbox => 0x03
  | .extl => 0x04
  | .intl => 0x05
  | .pstart => 0x06
  | .pstep => 0x07
  | .permute => 0x08
  | .hash => 0x09

/-- R83: the full command word of a command is its opcode zero-extended to 256 bits. -/
def encode (i : Instr) : U256 := (opcode i).setWidth 256

end Sys2Proof
end

