-- ==== Sys2Proof/Machine/Field.lean ====
section
/-! DEFINITION. Field arithmetic and the S-box (spec/00_scope.md R15, spec/40_field.md R100 to R106). -/

namespace Sys2Proof.Machine

/-- R11: `n mod F`, as an Fe. -/
def Fe.ofNat (n : Nat) : Fe := ⟨n % F, Nat.mod_lt n (by decide)⟩

/-- R15: `add(a,b) = (a + b) mod F`. -/
def add (a b : Fe) : Fe := Fe.ofNat (a.val + b.val)

/-- R15: `mul(a,b) = (a · b) mod F`. -/
def mul (a b : Fe) : Fe := Fe.ofNat (a.val * b.val)

/-- R105, R106: the S-box by its addition chain x2, x4, x6, x7. -/
def sbox (x : Fe) : Fe :=
  let x2 := mul x x
  let x4 := mul x2 x2
  let x6 := mul x4 x2
  mul x6 x

/-- A ROM entry as a field element. Commands use it only when CFGOK = 1, and then the entries they
use are below F and unchanged by it (R33, R183; log entry 11). -/
def romFe (v : U256) : Fe := Fe.ofNat v.toNat

/-- R11: `zext_256`, an Fe placed in a 256-bit register. -/
def feWord (x : Fe) : U256 := BitVec.ofNat 256 x.val

end Sys2Proof.Machine
end

