-- ==== Sys2Proof/Machine/Layers.lean ====
section
/-! DEFINITION. The linear layers (spec/41_linear_layers.md R120, R122, R126). -/

namespace Sys2Proof.Machine

/-- R120: the 4-lane block M4, by the source's additions. -/
def m4 (a b c d : Fe) : Fe × Fe × Fe × Fe :=
  let t0 := add a b
  let t1 := add c d
  let t2 := add (add b b) t1
  let t3 := add (add d d) t0
  let t4 := add (add (add t1 t1) (add t1 t1)) t3
  let t5 := add (add (add t0 t0) (add t0 t0)) t2
  (add t3 t5, t5, add t2 t4, t4)

/-- R122: M4 on each half, then the lane-wise sum of the halves added back to both. -/
def extLayer (s : Lanes Fe) : Lanes Fe :=
  let (y0, y1, y2, y3) := m4 s.l0 s.l1 s.l2 s.l3
  let (z0, z1, z2, z3) := m4 s.l4 s.l5 s.l6 s.l7
  let u0 := add y0 z0
  let u1 := add y1 z1
  let u2 := add y2 z2
  let u3 := add y3 z3
  ⟨add y0 u0, add y1 u1, add y2 u2, add y3 u3,
   add z0 u0, add z1 u1, add z2 u2, add z3 u3⟩

/-- R126: the modular sum of all eight lanes. -/
def laneSum (x : Lanes Fe) : Fe :=
  add (add (add (add (add (add (add x.l0 x.l1) x.l2) x.l3) x.l4) x.l5) x.l6) x.l7

/-- R126: `out[i] = D[i]·x_i + s`, with the diffusion vector `d`. -/
def intLayer (d : Lanes U256) (x : Lanes Fe) : Lanes Fe :=
  let s := laneSum x
  Lanes.zipWith (fun di xi => add (mul (romFe di) xi) s) d x

end Sys2Proof.Machine
end

