-- ==== Sys2Proof/Machine/State.lean ====
section
/-! DEFINITION. The state of one unit (spec/10_state.md R20), its reset (R39), and the reasons a step can stop. -/

namespace Sys2Proof.Machine

/-- R180: the error codes of STATUS.ECODE. The codes 5 to 15 are never produced and have no
constructor (93 I9, log entry 8). -/
inductive ECode where
  /-- 0: the last completed command succeeded, or none has completed. -/
  | none
  /-- 1 -/
  | invalidInput
  /-- 2 -/
  | configurationError
  /-- 3 -/
  | illegalCommand
  /-- 4 -/
  | sequenceError
  deriving DecidableEq, Repr, Inhabited

/-- R30: the phases of the round scheduler. The codes 6 and 7 are never produced and have no
constructor (93 I9, log entry 8). -/
inductive Phase where
  /-- 0: no stepped permutation is in progress. -/
  | idle
  /-- 1: loaded, the initial external layer is pending. -/
  | init
  /-- 2: rounds 0 to 3. -/
  | full1
  /-- 3, PARTIAL: rounds 4 to 51. -/
  | part
  /-- 4: rounds 52 to 55. -/
  | full2
  /-- 5: all 56 rounds applied. -/
  | done
  deriving DecidableEq, Repr, Inhabited

/-- The unit has no trap and no fault (R189): every error is a report in STATUS and the machine goes
on. So no step of the model faults, and this type has no constructor. -/
inductive Fault where
  deriving DecidableEq, Repr

/-- Why a step has no meaning. -/
inductive Refusal where
  /-- Raised by `exec` for an instruction without a meaning, by name. No arm raises it. Safe. -/
  | notModelled (mnemonic : String)
  /-- Raised by PSTEP alone, where PHASE says that a round is due and RIDX names none of the rounds
  0..55. R31 rules these states out of every run, and 93 I9 has them refused (log entry 10). Safe. -/
  | schedOutOfRange
  deriving DecidableEq, Repr

/-- R20: the state of the unit, then its configuration, then the model's own fields. -/
structure State where
  /-- R21: IN[0..7]. -/
  inReg : Lanes U256
  /-- R22: ST[0..7], each canonical by its type (R24, log entry 9). -/
  st : Lanes Fe
  /-- R23: FRES, canonical by its type (R24, log entry 9). -/
  fres : Fe
  /-- R25: CMD, the last accepted command word. -/
  cmd : U256
  /-- R27: STATUS.BUSY. -/
  busy : Bool
  /-- R28: STATUS.DONE. -/
  done : Bool
  /-- R28: STATUS.ERR. -/
  err : Bool
  /-- R29: STATUS.HERR. -/
  herr : Bool
  /-- R26, R180: STATUS.ECODE. -/
  ecode : ECode
  /-- R26: STATUS.ELANE. -/
  elane : BitVec 4
  /-- R30: SCHED.PHASE. -/
  phase : Phase
  /-- R30: SCHED.RIDX, the next round to execute. -/
  ridx : BitVec 8
  /-- R35, R36: the configuration, a parameter of the step that no step writes (R202, log entry 1). -/
  rom : Rom
  /-- The model's own: what reaches the unit from here on, first one first (log entry 4). -/
  inputs : List Input
  /-- The model's own: the values the host's reads returned, latest first (log entry 5). -/
  reads : List U256
  /-- The model's own: how many host reads have been made, the argument of the next draw (log
  entry 3). -/
  draws : Nat
  deriving DecidableEq, Repr

/-- R39, R202: the unit with the configuration `rom` right after reset, with nothing yet from the
host (log entries 3, 4, 5). -/
def State.resetWith (rom : Rom) : State where
  inReg := Lanes.const 0
  st := Lanes.const ⟨0, by decide⟩
  fres := ⟨0, by decide⟩
  cmd := 0
  busy := false
  done := false
  err := false
  herr := false
  ecode := .none
  elane := 0
  phase := .idle
  ridx := 0
  rom := rom
  inputs := []
  reads := []
  draws := 0

/-- R39: the unit right after reset, with the configuration it was loaded with (log entry 2). -/
def State.reset : State := State.resetWith Config.unitRom

end Sys2Proof.Machine
end

