-- ==== Sys2Proof/Machine/Schedule.lean ====
section
/-! DEFINITION. The round schedule and the permutation (spec/42_permutation.md R140 to R143), and the check of the configuration (spec/10_state.md R33). -/

namespace Sys2Proof.Machine

/-- R140: rounds 0..3 and 52..55 are full. -/
def isFull (r : Fin 56) : Bool := decide (r.val < 4) || decide (52 ≤ r.val)

/-- R31: the phase in which `k` is the next round to execute; `k` runs over 0..56. -/
def phaseOf (k : Nat) : Phase :=
  if k < 4 then .full1
  else if k < 52 then .part
  else if k < 56 then .full2
  else .done

/-- R141: full round r: a constant on every lane, the S-box on every lane, the external layer. -/
def fullRound (rom : Rom) (s : Lanes Fe) (r : Fin 56) : Lanes Fe :=
  extLayer (Lanes.zipWith (fun x c => sbox (add x (romFe c))) s rom.rc[r])

/-- R142: partial round r: constant and S-box on lane 0 alone, the internal layer. -/
def partialRound (rom : Rom) (s : Lanes Fe) (r : Fin 56) : Lanes Fe :=
  intLayer rom.d { s with l0 := sbox (add s.l0 (romFe rom.rc[r].l0)) }

/-- The rounds `lo`, ..., `hi - 1` in execution order. -/
def roundsFrom (lo hi : Nat) : List (Fin 56) :=
  (List.finRange 56).filter fun r => decide (lo ≤ r.val) && decide (r.val < hi)

/-- R143: the permutation: the initial external layer, then rounds 0..3, 4..51 and 52..55. -/
def permute (rom : Rom) (s : Lanes Fe) : Lanes Fe :=
  let s0 := extLayer s
  let s1 := (roundsFrom 0 4).foldl (fullRound rom) s0
  let s2 := (roundsFrom 4 52).foldl (partialRound rom) s1
  (roundsFrom 52 56).foldl (fullRound rom) s2

/-- R33: `cfg_ok`: every meaningful RC entry and every D entry is canonical. Padding is not
checked. -/
def cfgOk (rom : Rom) : Bool :=
  let canon := fun (v : U256) => decide (v.toNat < F)
  ((List.finRange 56).all fun r =>
    if isFull r then rom.rc[r].all canon else canon rom.rc[r].l0) &&
  rom.d.all canon

end Sys2Proof.Machine
end

