-- ==== Sys2Proof/Machine/Flags.lean ====
section
/-! DEFINITION. The control registers as the host reads them: STATUS, SCHED and PARAMS (spec/10_state.md R26, R30, R32, spec/20_memory.md R52). -/

namespace Sys2Proof.Machine

/-- R180: the number of an error code. -/
def ecodeNum (e : ECode) : Nat :=
  match e with
  | .none => 0
  | .invalidInput => 1
  | .configurationError => 2
  | .illegalCommand => 3
  | .sequenceError => 4

/-- R30: the number of a phase. -/
def phaseNum (p : Phase) : Nat :=
  match p with
  | .idle => 0
  | .init => 1
  | .full1 => 2
  | .part => 3
  | .full2 => 4
  | .done => 5

/-- R26, R52: the STATUS word, with CFGOK computed from the configuration (R33). -/
def statusWord (s : State) : U256 :=
  BitVec.ofNat 256
    (s.elane.toNat * 2 ^ 12 + ecodeNum s.ecode * 2 ^ 8 + (cfgOk s.rom).toNat * 2 ^ 4
      + s.herr.toNat * 2 ^ 3 + s.err.toNat * 2 ^ 2 + s.done.toNat * 2 + s.busy.toNat)

/-- R30, R52: the SCHED word. -/
def schedWord (s : State) : U256 := BitVec.ofNat 256 (s.ridx.toNat * 2 ^ 8 + phaseNum s.phase)

/-- R32: the PARAMS word, from its fields NIN, ALPHA, R_P, R_F and T. -/
def paramsWord : U256 :=
  BitVec.ofNat 256
    (Config.hashInputs * 2 ^ 32 + Config.alpha * 2 ^ 24 + Config.partialRounds * 2 ^ 16
      + Config.fullRounds * 2 ^ 8 + Config.width)

end Sys2Proof.Machine
end

