-- ==== Sys2Proof/Machine/Operands.lean ====
section
/-! DEFINITION. The four errors of a command (spec/60_exceptions.md R180) and the operands of each command with their canonical check (spec/30_encoding.md R85, spec/60_exceptions.md R184). -/

namespace Sys2Proof.Machine

/-- R14, R180: what `raise` may be given. -/
inductive CmdError where
  | invalidInput (lane : Fin 8)
  | configurationError
  | illegalCommand
  | sequenceError
  deriving DecidableEq, Repr

/-- R180: the code `raise` records. -/
def errorCode (e : CmdError) : ECode :=
  match e with
  | .invalidInput _ => .invalidInput
  | .configurationError => .configurationError
  | .illegalCommand => .illegalCommand
  | .sequenceError => .sequenceError

/-- R14, R26: the lane `raise` records, 0 if none. -/
def errorLane (e : CmdError) : BitVec 4 :=
  match e with
  | .invalidInput k => BitVec.ofNat 4 k.val
  | .configurationError => 0
  | .illegalCommand => 0
  | .sequenceError => 0

/-- R184: operand IN[k]: itself where it is canonical, else InvalidInput(k). It is never reduced. -/
def operand (s : State) (k : Fin 8) : Except CmdError Fe :=
  if h : (s.inReg.get k).toNat < F then .ok ⟨(s.inReg.get k).toNat, h⟩
  else .error (.invalidInput k)

/-- R85, R184: the operands IN0 and IN1, lane 0 checked first. -/
def operands2 (s : State) : Except CmdError (Fe × Fe) :=
  match operand s 0 with
  | .error e => .error e
  | .ok a =>
    match operand s 1 with
    | .error e => .error e
    | .ok b => .ok (a, b)

/-- R85, R184: the operands IN0..IN6, lowest lane checked first, with `last` for lane 7. -/
def operands7 (s : State) (last : Except CmdError Fe) : Except CmdError (Lanes Fe) :=
  match operand s 0 with
  | .error e => .error e
  | .ok x0 =>
  match operand s 1 with
  | .error e => .error e
  | .ok x1 =>
  match operand s 2 with
  | .error e => .error e
  | .ok x2 =>
  match operand s 3 with
  | .error e => .error e
  | .ok x3 =>
  match operand s 4 with
  | .error e => .error e
  | .ok x4 =>
  match operand s 5 with
  | .error e => .error e
  | .ok x5 =>
  match operand s 6 with
  | .error e => .error e
  | .ok x6 =>
  match last with
  | .error e => .error e
  | .ok x7 => .ok ⟨x0, x1, x2, x3, x4, x5, x6, x7⟩

/-- R85, R184: the operands IN0..IN7, lowest lane checked first. -/
def operands8 (s : State) : Except CmdError (Lanes Fe) := operands7 s (operand s 7)

end Sys2Proof.Machine
end

