-- ==== Sys2Proof/Machine/Ops.lean ====
section
/-! DEFINITION. The shared operations: accepting a command, raising an error, completing a command, the host's reads and writes, and reset (spec/10_state.md R27, R28, spec/60_exceptions.md R181, spec/20_memory.md R51 to R54). -/

namespace Sys2Proof.Machine

/-- R27: a host write of `w` to CMD while BUSY = 0. -/
def accept (w : U256) (s : State) : State :=
  { s with cmd := w, busy := true, done := false, err := false, herr := false,
           ecode := .none, elane := 0 }

/-- R181: `raise E(lane)`: the report in STATUS, and nothing else. The unit has no return from an
error (R190): the next acceptance clears the report. -/
def raise (e : CmdError) (s : State) : State :=
  { s with err := true, done := false, ecode := errorCode e, elane := errorLane e, busy := false }

/-- R28, R82: the end of a command that raised nothing. -/
def succeed (s : State) : State :=
  { s with done := true, err := false, ecode := .none, elane := 0, busy := false }

/-- R82, R182: the completion of a command in state `s`: the configuration is checked first, then
the command's own checks, which give its operands `ops`; only then does `write` change registers. -/
def complete {α : Type} (s : State) (ops : Except CmdError α) (write : α → State) : State :=
  if cfgOk s.rom then
    match ops with
    | .ok a => succeed (write a)
    | .error e => raise e s
  else raise .configurationError s

/-- R82, R84, R185: the completion of an accepted word that is no command. -/
def completeIllegal (s : State) : State :=
  complete (α := Unit) s (.error .illegalCommand) fun _ => s

/-- R51: the register at an index; none where the index is unmapped. -/
def regAt (idx : Index) : Option Reg :=
  let n := idx.toNat
  if h : n < 0x008 then some (.inp ⟨n, h⟩)
  else if h : n - 0x008 < 8 then some (.st ⟨n - 0x008, h⟩)
  else if n = 0x010 then some .fres
  else if n = 0x011 then some .cmd
  else if n = 0x012 then some .status
  else if n = 0x013 then some .sched
  else if n = 0x014 then some .params
  else if h : 0x100 ≤ n ∧ n < 0x2C0 then
    some (.rc ⟨(n - 0x100) / 8, by omega⟩ ⟨(n - 0x100) % 8, by omega⟩)
  else if h : 0x2C0 ≤ n ∧ n < 0x2C8 then some (.d ⟨n - 0x2C0, by omega⟩)
  else none

/-- R51: the index of a register. -/
def regIndex (r : Reg) : Index :=
  match r with
  | .inp k => BitVec.ofNat 10 k.val
  | .st k => BitVec.ofNat 10 (0x008 + k.val)
  | .fres => 0x010
  | .cmd => 0x011
  | .status => 0x012
  | .sched => 0x013
  | .params => 0x014
  | .rc r i => BitVec.ofNat 10 (0x100 + 8 * r.val + i.val)
  | .d i => BitVec.ofNat 10 (0x2C0 + i.val)

/-- R52: what a host read of a register returns; `draw` is the unspecified value of a read of ST,
FRES or SCHED while BUSY = 1 (R207). -/
def readReg (draw : U256) (s : State) (r : Reg) : U256 :=
  match r with
  | .inp k => s.inReg.get k
  | .st k => if s.busy then draw else feWord (s.st.get k)
  | .fres => if s.busy then draw else feWord s.fres
  | .cmd => s.cmd
  | .status => statusWord s
  | .sched => if s.busy then draw else schedWord s
  | .params => paramsWord
  | .rc r i => (s.rom.rc[r]).get i
  | .d i => s.rom.d.get i

/-- R52, R54: `MemRead(idx, 32)`: an unmapped index reads 0. -/
def memRead (draw : U256) (idx : Index) (s : State) : U256 :=
  match regAt idx with
  | some r => readReg draw s r
  | none => 0

/-- R29, R54, R206: a host access the unit does not perform. -/
def hostError (s : State) : State := { s with herr := true }

/-- R53, R54: `MemWrite(idx, 32, v)`. -/
def memWrite (idx : Index) (v : U256) (s : State) : State :=
  match regAt idx with
  | some (.inp k) => if s.busy then hostError s else { s with inReg := s.inReg.set k v }
  | some .cmd => if s.busy then hostError s else accept v s
  | some (.st _) => hostError s
  | some .fres => hostError s
  | some .status => hostError s
  | some .sched => hostError s
  | some .params => hostError s
  | some (.rc _ _) => hostError s
  | some (.d _) => hostError s
  | none => hostError s

/-- One host read: the unit keeps its state (R52), the host gets the value, and the next read draws
anew (R207; log entries 3 and 5). -/
def hostRead (idx : Index) (s : State) : State :=
  { s with reads := memRead (Config.draw s.draws) idx s :: s.reads, draws := s.draws + 1 }

/-- R39, R200, R201: the reset input. The configuration is not state and stays (R39); so do the
host's own affairs (log entry 12). -/
def resetInput (s : State) : State :=
  { State.resetWith s.rom with inputs := s.inputs, reads := s.reads, draws := s.draws }

end Sys2Proof.Machine
end

