-- ==== Sys2Proof/Machine/FieldCommands.lean ====
section
/-! DEFINITION. The field family: FADD, FMUL, SBOX (spec/40_field.md R103 to R105). -/

namespace Sys2Proof.Machine

/-- R103: FADD, `FRES <- (IN[0] + IN[1]) mod F`. -/
def execFadd (s : State) : Host.Outcome State Fault Refusal :=
  .next (complete s (operands2 s) fun ab => { s with fres := add ab.1 ab.2 })

/-- R104: FMUL, `FRES <- (IN[0] · IN[1]) mod F`. -/
def execFmul (s : State) : Host.Outcome State Fault Refusal :=
  .next (complete s (operands2 s) fun ab => { s with fres := mul ab.1 ab.2 })

/-- R105: SBOX, `FRES <- IN[0]^7 mod F`. IN1..IN7 are not read. -/
def execSbox (s : State) : Host.Outcome State Fault Refusal :=
  .next (complete s (operand s 0) fun x => { s with fres := sbox x })

end Sys2Proof.Machine
end

