-- ==== Sys2Proof/Machine/HashCommand.lean ====
section
/-! DEFINITION. The hash family: HASH (spec/43_hash.md R170, R171). -/

namespace Sys2Proof.Machine

/-- R170, R171: the operands of HASH: IN0..IN6 checked, and TAG in lane 7. IN7 is not read. -/
def hashOperands (s : State) : Except CmdError (Lanes Fe) := operands7 s (.ok Config.tag)

/-- R171: HASH: ST is the permuted state, FRES its lane 0 (the digest), SCHED <- (DONE, 56). -/
def execHash (s : State) : Host.Outcome State Fault Refusal :=
  .next (complete s (hashOperands s) fun x =>
    { s with st := permute s.rom x, fres := (permute s.rom x).l0, phase := .done, ridx := 56 })

end Sys2Proof.Machine
end

