-- ==== Sys2Proof/Machine/LayerCommands.lean ====
section
/-! DEFINITION. The linear-layer family: EXTL, INTL (spec/41_linear_layers.md R128, R129). -/

namespace Sys2Proof.Machine

/-- R128: EXTL, `ST <- ExtLayer(IN)`, SCHED <- (IDLE, 0). -/
def execExtl (s : State) : Host.Outcome State Fault Refusal :=
  .next (complete s (operands8 s) fun x =>
    { s with st := extLayer x, phase := .idle, ridx := 0 })

/-- R129: INTL, `ST <- IntLayer(IN)`, SCHED <- (IDLE, 0). No S-box is applied. -/
def execIntl (s : State) : Host.Outcome State Fault Refusal :=
  .next (complete s (operands8 s) fun x =>
    { s with st := intLayer s.rom.d x, phase := .idle, ridx := 0 })

end Sys2Proof.Machine
end

