-- ==== Sys2Proof/Machine/PermuteCommands.lean ====
section
/-! DEFINITION. The permutation family: PSTART, PSTEP, PERMUTE (spec/42_permutation.md R145 to R147). -/

namespace Sys2Proof.Machine

/-- R145: PSTART, `ST <- IN`, SCHED <- (INIT, 0). No layer is applied. -/
def execPstart (s : State) : Host.Outcome State Fault Refusal :=
  .next (complete s (operands8 s) fun x => { s with st := x, phase := .init, ridx := 0 })

/-- R146: the end of round r in PSTEP: the new ST, then RIDX <- r + 1 and PHASE <- phase_of(r + 1). -/
def advance (s : State) (r : Fin 56) (st : Lanes Fe) : State :=
  { s with st := st, ridx := BitVec.ofNat 8 (r.val + 1), phase := phaseOf (r.val + 1) }

/-- R146: PSTEP in a phase that has a round due: round RIDX by `round`. A RIDX that names no round is
refused (93 I9, log entry 10). -/
def stepRound (s : State) (round : Rom → Lanes Fe → Fin 56 → Lanes Fe) :
    Host.Outcome State Fault Refusal :=
  if h : s.ridx.toNat < 56 then
    .next (complete s (.ok (⟨s.ridx.toNat, h⟩ : Fin 56)) fun r => advance s r (round s.rom s.st r))
  else .refused .schedOutOfRange

/-- R146, R186: PSTEP, one transition of the scheduler on ST. It checks no operand. -/
def execPstep (s : State) : Host.Outcome State Fault Refusal :=
  match s.phase with
  | .idle => .next (complete (α := Unit) s (.error .sequenceError) fun _ => s)
  | .init =>
    .next (complete s (.ok ()) fun _ => { s with st := extLayer s.st, phase := .full1 })
  | .full1 => stepRound s fullRound
  | .part => stepRound s partialRound
  | .full2 => stepRound s fullRound
  | .done => .next (complete (α := Unit) s (.error .sequenceError) fun _ => s)

/-- R147: PERMUTE, `ST <- Permute(IN)`, SCHED <- (DONE, 56). -/
def execPermute (s : State) : Host.Outcome State Fault Refusal :=
  .next (complete s (operands8 s) fun x =>
    { s with st := permute s.rom x, phase := .done, ridx := 56 })

end Sys2Proof.Machine
end

