-- ==== Sys2Proof/Machine/Dispatch.lean ====
section
/-! DEFINITION. The completion of each command (spec/30_encoding.md R82, R83), one arm per constructor of Instr. -/

namespace Sys2Proof.Machine

def exec (i : Instr) (s : State) : Host.Outcome State Fault Refusal :=
  match i with
  | .fadd => Sys2Proof.Machine.execFadd s
  | .fmul => Sys2Proof.Machine.execFmul s
  | .sbox => Sys2Proof.Machine.execSbox s
  | .extl => Sys2Proof.Machine.execExtl s
  | .intl => Sys2Proof.Machine.execIntl s
  | .pstart => Sys2Proof.Machine.execPstart s
  | .pstep => Sys2Proof.Machine.execPstep s
  | .permute => Sys2Proof.Machine.execPermute s
  | .hash => Sys2Proof.Machine.execHash s

end Sys2Proof.Machine
end

