-- ==== Sys2Proof/Machine/Step.lean ====
section
/-! DEFINITION. One step: the host's next access, the reset input, or the unit's own step (spec/00_scope.md R16, spec/20_memory.md R61, spec/30_encoding.md R82). -/

namespace Sys2Proof.Machine

/-- R82: `complete()`: the unit step that executes the accepted word in CMD. -/
def completeCommand (s : State) : Host.Outcome State Fault Refusal :=
  match decode s.cmd with
  | .ok i => exec i s
  | .error _ => .next (completeIllegal s)

/-- R61, R198: the unit's turn: its step is enabled exactly while BUSY = 1; between commands it
holds all its state (log entry 7). -/
def unitStep (s : State) : Host.Outcome State Fault Refusal :=
  if s.busy then completeCommand s else .next s

/-- R61: the agents' steps interleave as `inputs` says; when it is empty the unit moves (log
entry 4). -/
def step (s : State) : Host.Outcome State Fault Refusal :=
  match s.inputs with
  | [] => unitStep s
  | .unitTurn :: rest => unitStep { s with inputs := rest }
  | .read idx :: rest => .next (hostRead idx { s with inputs := rest })
  | .write idx v :: rest => .next (memWrite idx v { s with inputs := rest })
  | .reset :: rest => .next (resetInput { s with inputs := rest })

/-- The state in which the word `w` has just been accepted and the next turn is the unit's: what a
host write of `w` to CMD leaves (R27, R64; log entry 6). -/
def State.withFetchWord (s : State) (nbits w : Nat) : State :=
  { accept (BitVec.ofNat 256 (w % 2 ^ nbits)) s with inputs := .unitTurn :: s.inputs }

end Sys2Proof.Machine
end

