-- ==== Sys2Proof/Machine/Bridge.lean ====
section
/-! DEFINITION. A bridge from the 256-bit host port to a byte-addressed bus, outside the unit (spec/20_memory.md R55, spec/00_scope.md R9; log entry 15). -/

namespace Sys2Proof.Machine

/-- The 32 bytes of a word, least significant first. -/
def bytesLow (w : U256) : List (BitVec 8) := (List.range 32).map fun k => w.extractLsb' (8 * k) 8

/-- The word whose bytes are `bs`, least significant first. -/
def wordLow (bs : List (BitVec 8)) : U256 :=
  BitVec.ofNat 256 (bs.foldr (fun b n => b.toNat + 256 * n) 0)

/-- The bytes of a word as the bridge lays them out. -/
def bridgeBytes (o : ByteOrder) (w : U256) : List (BitVec 8) :=
  match o with
  | .littleEndian => bytesLow w
  | .bigEndian => (bytesLow w).reverse

/-- The word the bridge makes of 32 bytes. -/
def bridgeWord (o : ByteOrder) (bs : List (BitVec 8)) : U256 :=
  match o with
  | .littleEndian => wordLow bs
  | .bigEndian => wordLow bs.reverse

/-- A host read through the bridge. -/
def bridgeRead (draw : U256) (idx : Index) (s : State) : List (BitVec 8) :=
  bridgeBytes Config.bridgeByteOrder (memRead draw idx s)

/-- A host write through the bridge, of 32 bytes. -/
def bridgeWrite (idx : Index) (bs : List (BitVec 8)) (s : State) : State :=
  memWrite idx (bridgeWord Config.bridgeByteOrder bs) s

end Sys2Proof.Machine
end

