-- ==== Sys2Proof/Machine/HostProgram.lean ====
section
/-! DEFINITION. The host agent running a program in the host assembly, beside the unit and outside its State (spec/30_encoding.md R86 to R88, spec/70_reset_and_hazards.md R213; log entry 16). -/

namespace Sys2Proof.Machine

open Sys2Proof.Asm

/-- R87: `wait`, with a fresh host variable `t` and a fresh label `lw`. -/
def expandWait (t lw : String) : List Stmt :=
  [.label lw, .rd t .status, .ifGoto ⟨t, 0, 0, true, 1⟩ lw]

/-- R87: `cmd M` = `wr CMD, OPC(M)`. -/
def expandCmd (i : Instr) : List Stmt := [.wr .cmd (.lit (encode i))]

/-- R87: the expansion of a pseudo-instruction. -/
def expand (p : Pseudo) : List Stmt :=
  match p with
  | .cmd i => expandCmd i
  | .wait t lw => expandWait t lw
  | .run i t lw => expandCmd i ++ expandWait t lw
  | .ld8 v =>
    [.wr (.inp 0) v.l0, .wr (.inp 1) v.l1, .wr (.inp 2) v.l2, .wr (.inp 3) v.l3,
     .wr (.inp 4) v.l4, .wr (.inp 5) v.l5, .wr (.inp 6) v.l6, .wr (.inp 7) v.l7]
  | .hash7 v0 v1 v2 v3 v4 v5 v6 t lw =>
    [.wr (.inp 0) v0, .wr (.inp 1) v1, .wr (.inp 2) v2, .wr (.inp 3) v3,
     .wr (.inp 4) v4, .wr (.inp 5) v5, .wr (.inp 6) v6] ++ expandCmd .hash ++ expandWait t lw
  | .chk x => [.rd x .status]

/-- The host agent (R16, R86): its program, the position of its next statement, its variables. -/
structure HostAgent where
  prog : List Stmt
  pos  : Nat
  vars : List (String × U256)
  deriving DecidableEq, Repr

/-- The value of a host variable; none where nothing has assigned it. -/
def HostAgent.value (h : HostAgent) (x : String) : Option U256 := h.vars.lookup x

/-- The value of what `wr` writes. -/
def HostAgent.operandValue (h : HostAgent) (v : Operand) : Option U256 :=
  match v with
  | .lit w => some w
  | .var x => h.value x

/-- The host at its next statement in line. -/
def HostAgent.next (h : HostAgent) : HostAgent := { h with pos := h.pos + 1 }

/-- R12, R86: does the condition hold of the value `v` of its variable? -/
def condHolds (c : Cond) (v : U256) : Bool :=
  (decide (v.toNat / 2 ^ c.lo % 2 ^ (c.hi - c.lo + 1) = c.lit)) == c.equal

/-- What a turn of the host does. -/
inductive HostTurn where
  | moved (h : HostAgent) (s : State)
  /-- Its last statement has executed (R213). -/
  | ended
  /-- It jumps to a label that stands nowhere, or uses a variable nothing has assigned. -/
  | stuck
  deriving DecidableEq, Repr

/-- R86: a jump to the statement of the label. -/
def HostAgent.jump (h : HostAgent) (l : String) (s : State) : HostTurn :=
  match h.prog.findIdx? (fun st => st == .label l) with
  | some p => .moved { h with pos := p } s
  | none => .stuck

/-- R86: the host executes its next statement; `wr` and `rd` are the unit's host accesses. -/
def hostTurn (h : HostAgent) (s : State) : HostTurn :=
  match h.prog[h.pos]? with
  | none => .ended
  | some (.wr reg v) =>
    match h.operandValue v with
    | some w => .moved h.next (memWrite (regIndex reg) w s)
    | none => .stuck
  | some (.rd x reg) =>
    .moved { h.next with vars := (x, memRead (Config.draw s.draws) (regIndex reg) s) :: h.vars }
      (hostRead (regIndex reg) s)
  | some (.label _) => .moved h.next s
  | some (.goto l) => h.jump l s
  | some (.ifGoto c l) =>
    match h.value c.x with
    | some v => if condHolds c v then h.jump l s else .moved h.next s
    | none => .stuck

/-- R88: the bus transaction of the host's next statement, `W <index> <value>` or `R <index>`; none
where it performs none. -/
def busTransaction (h : HostAgent) : Option Input :=
  match h.prog[h.pos]? with
  | some (.wr reg v) => (h.operandValue v).map (Input.write (regIndex reg))
  | some (.rd _ reg) => some (Input.read (regIndex reg))
  | some (.label _) => none
  | some (.goto _) => none
  | some (.ifGoto _ _) => none
  | none => none

/-- R16: the two agents together. -/
structure System where
  host : HostAgent
  unit : State
  deriving DecidableEq, Repr

/-- R61, R200: who moves. -/
inductive Turn where
  | host
  | unit
  | reset
  deriving DecidableEq, Repr

/-- Why the two agents together cannot go on. -/
inductive SystemStop where
  | hostStuck
  | unitRefused (r : Refusal)
  deriving DecidableEq, Repr

/-- R61: one atomic step of the agent whose turn it is. A host that has ended moves nothing. -/
def systemTurn (who : Turn) (y : System) : Except SystemStop System :=
  match who with
  | .host =>
    match hostTurn y.host y.unit with
    | .moved h s => .ok ⟨h, s⟩
    | .ended => .ok y
    | .stuck => .error .hostStuck
  | .unit =>
    match unitStep y.unit with
    | .next s => .ok ⟨y.host, s⟩
    | .refused r => .error (.unitRefused r)
    | .fault f => nomatch f
  | .reset => .ok ⟨y.host, resetInput y.unit⟩

/-- R61: the agents' steps in a given interleaving. -/
def systemRun (turns : List Turn) (y : System) : Except SystemStop System :=
  match turns with
  | [] => .ok y
  | who :: rest =>
    match systemTurn who y with
    | .ok y' => systemRun rest y'
    | .error e => .error e

/-- R213: a run has ended when the last statement has executed and no command is outstanding. -/
def systemEnded (y : System) : Bool := decide (y.host.prog.length ≤ y.host.pos) && !y.unit.busy

end Sys2Proof.Machine
end

