-- ==== Sys2Proof/Safety.lean ====
section
/-! DEFINITION. Well-formed states of the unit (spec/10_state.md R27, R28, R31), safe steps, and commands issued one after the other (spec/70_reset_and_hazards.md R205, R208). -/

namespace Sys2Proof.Machine

/-- R31: the scheduler position is one of those the spec names. -/
abbrev SchedOk (s : State) : Prop :=
  (s.phase = .idle ∧ s.ridx = 0) ∨ (s.phase = .init ∧ s.ridx = 0) ∨
    (s.ridx.toNat ≤ 56 ∧ s.phase = phaseOf s.ridx.toNat)

/-- R26, R27, R28: STATUS is consistent: nothing is reported while busy, DONE and ERR exclude each
other, ERR goes with an error code, and only InvalidInput records a lane, one of 0..7. -/
abbrev StatusOk (s : State) : Prop :=
  (s.busy = true → s.done = false ∧ s.err = false) ∧
  ¬(s.done = true ∧ s.err = true) ∧
  (s.err = true ↔ s.ecode ≠ .none) ∧
  (s.ecode ≠ .invalidInput → s.elane = 0) ∧
  s.elane.toNat < 8

/-- A well-formed state of the unit. -/
abbrev StateOk (s : State) : Prop := SchedOk s ∧ StatusOk s

/-- R61: the next turn is the unit's, and `rest` is what then reaches it. -/
abbrev UnitMoves (s : State) (rest : List Input) : Prop :=
  (s.inputs = [] ∧ rest = []) ∨ s.inputs = .unitTurn :: rest

/-- R85: how many lanes IN0, IN1, ... a command checks. -/
def checkedLanes (i : Instr) : Nat :=
  match i with
  | .fadd => 2
  | .fmul => 2
  | .sbox => 1
  | .extl => 8
  | .intl => 8
  | .pstart => 8
  | .pstep => 0
  | .permute => 8
  | .hash => 7

/-- R35: two ROMs agree on every meaningful entry: all of D, all lanes of a full round's row, lane 0
of a partial round's row. -/
def MeaningfulAgree (rom rom' : Rom) : Prop :=
  rom.d = rom'.d ∧
    ∀ (r : Fin 56) (i : Fin 8), (r.val < 4 ∨ 52 ≤ r.val ∨ i = 0) →
      (rom.rc[r]).get i = (rom'.rc[r]).get i

/-- A step is safe when it answers a next state. -/
def SafeStep (s : State) : Prop := ∃ t, step s = .next t

/-- `n` steps, stopping where a step stops. -/
def run (n : Nat) (s : State) : Host.Outcome State Fault Refusal :=
  match n with
  | 0 => .next s
  | k + 1 =>
    match step s with
    | .next t => run k t
    | .fault r => .fault r
    | .refused r => .refused r

/-- The states a unit can be in, whatever its configuration and whatever reaches it from outside:
from reset with inputs of any kind, by steps. -/
inductive Reachable : State → Prop where
  | reset (rom : Rom) (inputs : List Input) : Reachable { State.resetWith rom with inputs := inputs }
  | step {s t : State} : Reachable s → Machine.step s = .next t → Reachable t

/-- R208: one command, from its acceptance to its completion, with nothing between. -/
def issue (i : Instr) (s : State) : Host.Outcome State Fault Refusal := exec i (accept (encode i) s)

/-- R205: commands issued one after the other. -/
def issueAll (is : List Instr) (s : State) : Host.Outcome State Fault Refusal :=
  match is with
  | [] => .next s
  | i :: rest =>
    match issue i s with
    | .next t => issueAll rest t
    | .fault r => .fault r
    | .refused r => .refused r

end Sys2Proof.Machine
end

