-- ==== Sys2Proof/Certificates/Slice0/Obligations.lean ====
section
/-! DEFINITION. The statements about the unit, each named for what it says. -/

open Sys2Proof Sys2Proof.Machine

/-! ## Command words -/

/-- R83: a word decodes to a command exactly when it is that command's own word. -/
def Obligations.DecodeAndEncodeAgree : Prop :=
  ∀ (w : U256) (i : Instr), i.wf = true → (decode w = .ok i ↔ w = encode i)

/-- R83, R84: words written out from the spec's tables. -/
def Obligations.WrittenWordsDecode : Prop :=
  decode 0x01 = .ok .fadd ∧ decode 0x02 = .ok .fmul ∧ decode 0x03 = .ok .sbox ∧
  decode 0x04 = .ok .extl ∧ decode 0x05 = .ok .intl ∧ decode 0x06 = .ok .pstart ∧
  decode 0x07 = .ok .pstep ∧ decode 0x08 = .ok .permute ∧ decode 0x09 = .ok .hash ∧
  decode 0x00 = .error .opcodeZero ∧ decode 0x0A = .error (.opcodeUnassigned 0x0A) ∧
  decode 0x109 = .error .reservedBits

/-- R84: the words that are no command are those with RSV ≠ 0, OPC = 0x00 or OPC ≥ 0x0A. -/
def Obligations.IllegalWordsAreTheReservedOnes : Prop :=
  ∀ w : U256, (∀ i, decode w ≠ .ok i) ↔
    (w.toNat / 2 ^ 8 ≠ 0 ∨ w.toNat % 2 ^ 8 = 0x00 ∨ 0x0A ≤ w.toNat % 2 ^ 8)

/-- R84, R185: an accepted illegal word completes with IllegalCommand(0) and changes nothing
else. -/
def Obligations.IllegalCommandIsReported : Prop :=
  ∀ (s : State) (rest : List Input), UnitMoves s rest → s.busy = true → cfgOk s.rom = true →
    (s.cmd.toNat / 2 ^ 8 ≠ 0 ∨ s.cmd.toNat % 2 ^ 8 = 0x00 ∨ 0x0A ≤ s.cmd.toNat % 2 ^ 8) →
    step s = .next { s with inputs := rest, busy := false, done := false, err := true,
                            ecode := .illegalCommand, elane := 0 }

/-! ## Steps -/

/-- R61, R82: while busy, the unit's turn is the completion of the command in CMD. That `inputs` says
whose turn it is, is the model's choice (log entry 4). -/
def Obligations.StepRunsTheAcceptedCommand : Prop :=
  ∀ (s : State) (rest : List Input) (i : Instr), UnitMoves s rest → s.busy = true →
    decode s.cmd = .ok i → step s = exec i { s with inputs := rest }

/-- R198: between commands the unit holds all its state. That its turn with BUSY = 0, where R61 enables
no step, answers a next state that is the old one is DEDUCED (log entry 7). -/
def Obligations.StepHoldsTheIdleUnit : Prop :=
  ∀ (s : State) (rest : List Input), UnitMoves s rest → s.busy = false →
    step s = .next { s with inputs := rest }

/-- The model's choice (log entry 6): `withFetchWord` places a command as an accepted write of CMD
does, and the next step completes it. -/
def Obligations.FetchWordIsRunNext : Prop :=
  ∀ (i : Instr) (s : State),
    step (s.withFetchWord 256 (encode i).toNat) = exec i (accept (encode i) s)

/-- R27: a write to CMD while BUSY = 0 accepts the command, and the unit step that completes it
clears BUSY. -/
def Obligations.CommandIsAcceptedAndCompleted : Prop :=
  (∀ (s : State) (v : U256) (rest : List Input), s.inputs = .write 0x011 v :: rest →
    s.busy = false →
    step s = .next { s with inputs := rest, cmd := v, busy := true, done := false, err := false,
                            herr := false, ecode := .none, elane := 0 }) ∧
  (∀ (s t : State) (rest : List Input), UnitMoves s rest → step s = .next t → t.busy = false)

/-! ## The host port -/

/-- R53, R54, R206: every host write. -/
def Obligations.HostWriteEffects : Prop :=
  ∀ (s : State) (idx : Index) (v : U256) (rest : List Input), s.inputs = .write idx v :: rest →
    (idx.toNat < 8 → s.busy = false →
      ∃ x : Lanes U256, step s = .next { s with inputs := rest, inReg := x } ∧
        ∀ k : Fin 8, x.get k = if k.val = idx.toNat then v else s.inReg.get k) ∧
    (idx.toNat = 0x011 → s.busy = false →
      step s = .next { s with inputs := rest, cmd := v, busy := true, done := false, err := false,
                              herr := false, ecode := .none, elane := 0 }) ∧
    ((idx.toNat < 8 ∨ idx.toNat = 0x011) → s.busy = true →
      step s = .next { s with inputs := rest, herr := true }) ∧
    (8 ≤ idx.toNat → idx.toNat ≠ 0x011 →
      step s = .next { s with inputs := rest, herr := true })

/-- R52: every host read returns what the map says and changes no register. `reads` is where the
value arrives, and `draws` counts the reads (log entries 3 and 5). -/
def Obligations.HostReadReturnsTheMap : Prop :=
  ∀ (s : State) (idx : Index) (rest : List Input), s.inputs = .read idx :: rest →
    ∃ v : U256,
      step s = .next { s with inputs := rest, reads := v :: s.reads, draws := s.draws + 1 } ∧
      (∀ k : Fin 8, idx.toNat = k.val → v = s.inReg.get k) ∧
      (∀ k : Fin 8, idx.toNat = 0x008 + k.val → s.busy = false → v.toNat = (s.st.get k).val) ∧
      (idx.toNat = 0x010 → s.busy = false → v.toNat = s.fres.val) ∧
      (idx.toNat = 0x011 → v = s.cmd) ∧
      (idx.toNat = 0x012 →
        v.toNat = s.elane.toNat * 2 ^ 12 + ecodeNum s.ecode * 2 ^ 8 + (cfgOk s.rom).toNat * 2 ^ 4
          + s.herr.toNat * 2 ^ 3 + s.err.toNat * 2 ^ 2 + s.done.toNat * 2 + s.busy.toNat) ∧
      (idx.toNat = 0x013 → s.busy = false → v.toNat = s.ridx.toNat * 2 ^ 8 + phaseNum s.phase) ∧
      (((8 ≤ idx.toNat ∧ idx.toNat ≤ 0x010) ∨ idx.toNat = 0x013) → s.busy = true →
        v = Config.draw s.draws) ∧
      (idx.toNat = 0x014 → v.toNat = 0x0707300808) ∧
      (∀ (r : Fin 56) (i : Fin 8), idx.toNat = 0x100 + 8 * r.val + i.val →
        v = (s.rom.rc[r]).get i) ∧
      (∀ i : Fin 8, idx.toNat = 0x2C0 + i.val → v = s.rom.d.get i) ∧
      ((0x015 ≤ idx.toNat ∧ idx.toNat < 0x100) ∨ 0x2C8 ≤ idx.toNat → v = 0)

/-- R207: while BUSY = 1 a read of ST, FRES or SCHED may return every u256, and no other read
depends on the draw; while BUSY = 0 none does. -/
def Obligations.OnlyResultReadsWhileBusyAreFree : Prop :=
  ∀ (s : State) (idx : Index),
    (s.busy = true → ((8 ≤ idx.toNat ∧ idx.toNat ≤ 0x010) ∨ idx.toNat = 0x013) →
      ∀ v : U256, memRead v idx s = v) ∧
    (s.busy = false ∨ ¬((8 ≤ idx.toNat ∧ idx.toNat ≤ 0x010) ∨ idx.toNat = 0x013) →
      ∀ d d' : U256, memRead d idx s = memRead d' idx s)

/-- R26: the fields of the STATUS word. -/
def Obligations.StatusWordFields : Prop :=
  ∀ (draw : U256) (s : State),
    (memRead draw 0x012 s).getLsbD 0 = s.busy ∧
    (memRead draw 0x012 s).getLsbD 1 = s.done ∧
    (memRead draw 0x012 s).getLsbD 2 = s.err ∧
    (memRead draw 0x012 s).getLsbD 3 = s.herr ∧
    (memRead draw 0x012 s).getLsbD 4 = cfgOk s.rom ∧
    (memRead draw 0x012 s).extractLsb' 5 3 = 0 ∧
    ((memRead draw 0x012 s).extractLsb' 8 4).toNat = ecodeNum s.ecode ∧
    (memRead draw 0x012 s).extractLsb' 12 4 = s.elane ∧
    (memRead draw 0x012 s).extractLsb' 16 240 = 0

/-- R30: the fields of the SCHED word, read while BUSY = 0. -/
def Obligations.SchedWordFields : Prop :=
  ∀ (draw : U256) (s : State), s.busy = false →
    ((memRead draw 0x013 s).extractLsb' 0 3).toNat = phaseNum s.phase ∧
    (memRead draw 0x013 s).extractLsb' 3 5 = 0 ∧
    (memRead draw 0x013 s).extractLsb' 8 8 = s.ridx ∧
    (memRead draw 0x013 s).extractLsb' 16 240 = 0

/-- R51: every named register has one index, and an index names at most that register. -/
def Obligations.RegisterMapIsOneToOne : Prop :=
  (∀ r : Reg, regAt (regIndex r) = some r) ∧
  (∀ (idx : Index) (r : Reg), regAt idx = some r → regIndex r = idx)

/-- R62, R64: while a command is outstanding nothing that reaches the unit changes its operands, its
word, or the registers it will write. -/
def Obligations.RegistersAreStableWhileBusy : Prop :=
  ∀ s t : State, s.busy = true → step s = .next t → t.busy = true →
    t.inReg = s.inReg ∧ t.cmd = s.cmd ∧ t.st = s.st ∧ t.fres = s.fres ∧ t.phase = s.phase ∧
      t.ridx = s.ridx

/-- R24: what the host reads from ST and FRES while BUSY = 0 is canonical (typed so, log entry 9). -/
def Obligations.ResultReadsAreCanonical : Prop :=
  ∀ (draw : U256) (s : State) (idx : Index), s.busy = false → 8 ≤ idx.toNat → idx.toNat ≤ 0x010 →
    (memRead draw idx s).toNat < F

/-! ## Reset -/

/-- R39: the reset input sets every piece of state, at any time, and leaves the configuration. -/
def Obligations.ResetInputSetsEveryRegister : Prop :=
  ∀ (s : State) (rest : List Input), s.inputs = .reset :: rest →
    ∃ t, step s = .next t ∧
      (∀ k : Fin 8, t.inReg.get k = 0 ∧ (t.st.get k).val = 0) ∧ t.fres.val = 0 ∧ t.cmd = 0 ∧
      t.busy = false ∧ t.done = false ∧ t.err = false ∧ t.herr = false ∧ ecodeNum t.ecode = 0 ∧
      t.elane = 0 ∧ t.phase = .idle ∧ t.ridx = 0 ∧ t.rom = s.rom

/-- R31, R28: the state after reset is well formed, whatever the configuration. -/
def Obligations.ResetStateIsWellFormed : Prop :=
  (∀ rom : Rom, StateOk (State.resetWith rom)) ∧ StateOk State.reset

/-- R204: what the host reads after reset. -/
def Obligations.RegistersReadZeroAfterReset : Prop :=
  ∀ (rom : Rom) (draw : U256) (idx : Index),
    (idx.toNat < 0x012 ∨ idx.toNat = 0x013 → memRead draw idx (State.resetWith rom) = 0) ∧
    (idx.toNat = 0x012 →
      memRead draw idx (State.resetWith rom) = if cfgOk rom = true then 0x10 else 0)

/-! ## The field family -/

/-- R103: FADD. -/
def Obligations.FaddAddsModuloF : Prop :=
  encode .fadd = 0x01 ∧ ∀ s : State, cfgOk s.rom = true →
    (F ≤ (s.inReg.get 0).toNat →
      exec .fadd s = .next { s with busy := false, done := false, err := true,
                                    ecode := .invalidInput, elane := 0 }) ∧
    ((s.inReg.get 0).toNat < F → F ≤ (s.inReg.get 1).toNat →
      exec .fadd s = .next { s with busy := false, done := false, err := true,
                                    ecode := .invalidInput, elane := 1 }) ∧
    ((s.inReg.get 0).toNat < F → (s.inReg.get 1).toNat < F →
      exec .fadd s =
        .next { s with fres := Fe.ofNat ((s.inReg.get 0).toNat + (s.inReg.get 1).toNat)
                       busy := false, done := true, err := false, ecode := .none, elane := 0 })

/-- R104: FMUL. -/
def Obligations.FmulMultipliesModuloF : Prop :=
  encode .fmul = 0x02 ∧ ∀ s : State, cfgOk s.rom = true →
    (F ≤ (s.inReg.get 0).toNat →
      exec .fmul s = .next { s with busy := false, done := false, err := true,
                                    ecode := .invalidInput, elane := 0 }) ∧
    ((s.inReg.get 0).toNat < F → F ≤ (s.inReg.get 1).toNat →
      exec .fmul s = .next { s with busy := false, done := false, err := true,
                                    ecode := .invalidInput, elane := 1 }) ∧
    ((s.inReg.get 0).toNat < F → (s.inReg.get 1).toNat < F →
      exec .fmul s =
        .next { s with fres := Fe.ofNat ((s.inReg.get 0).toNat * (s.inReg.get 1).toNat)
                       busy := false, done := true, err := false, ecode := .none, elane := 0 })

/-- R105, R106: SBOX is the seventh power modulo F. -/
def Obligations.SboxIsTheSeventhPower : Prop :=
  encode .sbox = 0x03 ∧ ∀ s : State, cfgOk s.rom = true →
    (F ≤ (s.inReg.get 0).toNat →
      exec .sbox s = .next { s with busy := false, done := false, err := true,
                                    ecode := .invalidInput, elane := 0 }) ∧
    ((s.inReg.get 0).toNat < F →
      exec .sbox s =
        .next { s with fres := Fe.ofNat ((s.inReg.get 0).toNat ^ 7)
                       busy := false, done := true, err := false, ecode := .none, elane := 0 })

/-- R107: the S-box is a bijection on [0, F). -/
def Obligations.SboxIsABijection : Prop := Function.Bijective sbox

/-! ## The linear layers -/

/-- R128: EXTL. -/
def Obligations.ExtlWritesTheExternalLayer : Prop :=
  encode .extl = 0x04 ∧ ∀ s : State, cfgOk s.rom = true →
    ((∀ k : Fin 8, (s.inReg.get k).toNat < F) →
      exec .extl s =
        .next { s with st := extLayer (Lanes.ofFn fun k => Fe.ofNat (s.inReg.get k).toNat)
                       phase := .idle, ridx := 0,
                       busy := false, done := true, err := false, ecode := .none, elane := 0 }) ∧
    (∀ k : Fin 8, (∀ j : Fin 8, j.val < k.val → (s.inReg.get j).toNat < F) →
      F ≤ (s.inReg.get k).toNat →
      exec .extl s = .next { s with busy := false, done := false, err := true,
                                    ecode := .invalidInput, elane := BitVec.ofNat 4 k.val })

/-- R123: the external layer, computed by the additions of R120 and R122, is the matrix M_E. -/
def Obligations.ExternalLayerIsTheMatrix : Prop :=
  ∀ a b c d e f g h : Fe, extLayer ⟨a, b, c, d, e, f, g, h⟩ =
    ⟨Fe.ofNat (10 * a + 14 * b + 2 * c + 6 * d + 5 * e + 7 * f + g + 3 * h),
     Fe.ofNat (8 * a + 12 * b + 2 * c + 2 * d + 4 * e + 6 * f + g + h),
     Fe.ofNat (2 * a + 6 * b + 10 * c + 14 * d + e + 3 * f + 5 * g + 7 * h),
     Fe.ofNat (2 * a + 2 * b + 8 * c + 12 * d + e + f + 4 * g + 6 * h),
     Fe.ofNat (5 * a + 7 * b + c + 3 * d + 10 * e + 14 * f + 2 * g + 6 * h),
     Fe.ofNat (4 * a + 6 * b + c + d + 8 * e + 12 * f + 2 * g + 2 * h),
     Fe.ofNat (a + 3 * b + 5 * c + 7 * d + 2 * e + 6 * f + 10 * g + 14 * h),
     Fe.ofNat (a + b + 4 * c + 6 * d + 2 * e + 2 * f + 8 * g + 12 * h)⟩

/-- R125: the external layer is linear over the field and fixes zero. -/
def Obligations.ExternalLayerIsLinear : Prop :=
  (∀ x y : Lanes Fe,
    extLayer (Lanes.zipWith add x y) = Lanes.zipWith add (extLayer x) (extLayer y)) ∧
  (∀ (c : Fe) (x : Lanes Fe), extLayer (x.map (mul c)) = (extLayer x).map (mul c)) ∧
  extLayer (Lanes.const (Fe.ofNat 0)) = Lanes.const (Fe.ofNat 0)

/-- R123: the external layer is a bijection on eight lanes. -/
def Obligations.ExternalLayerIsABijection : Prop := Function.Bijective extLayer

/-- R129: INTL. -/
def Obligations.IntlWritesTheInternalLayer : Prop :=
  encode .intl = 0x05 ∧ ∀ s : State, cfgOk s.rom = true →
    ((∀ k : Fin 8, (s.inReg.get k).toNat < F) →
      exec .intl s =
        .next { s with st := intLayer s.rom.d
                          (Lanes.ofFn fun k => Fe.ofNat (s.inReg.get k).toNat)
                       phase := .idle, ridx := 0,
                       busy := false, done := true, err := false, ecode := .none, elane := 0 }) ∧
    (∀ k : Fin 8, (∀ j : Fin 8, j.val < k.val → (s.inReg.get j).toNat < F) →
      F ≤ (s.inReg.get k).toNat →
      exec .intl s = .next { s with busy := false, done := false, err := true,
                                    ecode := .invalidInput, elane := BitVec.ofNat 4 k.val })

/-- R126: lane i of the internal layer is D[i]·x_i plus the sum of all lanes, modulo F. For an entry of
D that is F or more, which R126 does not cover, the statement rests on log entry 11 (DEDUCED). -/
def Obligations.InternalLayerFormula : Prop :=
  ∀ (d : Lanes U256) (x : Lanes Fe) (k : Fin 8),
    (intLayer d x).get k =
      Fe.ofNat ((d.get k).toNat * (x.get k).val +
        (x.l0.val + x.l1.val + x.l2.val + x.l3.val + x.l4.val + x.l5.val + x.l6.val + x.l7.val))

/-! ## The permutation -/

/-- R145: PSTART. -/
def Obligations.PstartLoadsTheState : Prop :=
  encode .pstart = 0x06 ∧ ∀ s : State, cfgOk s.rom = true →
    ((∀ k : Fin 8, (s.inReg.get k).toNat < F) →
      exec .pstart s =
        .next { s with st := Lanes.ofFn fun k => Fe.ofNat (s.inReg.get k).toNat
                       phase := .init, ridx := 0,
                       busy := false, done := true, err := false, ecode := .none, elane := 0 }) ∧
    (∀ k : Fin 8, (∀ j : Fin 8, j.val < k.val → (s.inReg.get j).toNat < F) →
      F ≤ (s.inReg.get k).toNat →
      exec .pstart s = .next { s with busy := false, done := false, err := true,
                                      ecode := .invalidInput, elane := BitVec.ofNat 4 k.val })

/-- R146: PSTEP makes one transition of the scheduler. -/
def Obligations.PstepMakesOneTransition : Prop :=
  encode .pstep = 0x07 ∧ ∀ s : State, cfgOk s.rom = true →
    (s.phase = .idle ∨ s.phase = .done →
      exec .pstep s = .next { s with busy := false, done := false, err := true,
                                     ecode := .sequenceError, elane := 0 }) ∧
    (s.phase = .init →
      exec .pstep s =
        .next { s with st := extLayer s.st, phase := .full1,
                       busy := false, done := true, err := false, ecode := .none, elane := 0 }) ∧
    (∀ r : Fin 56, s.ridx.toNat = r.val → (s.phase = .full1 ∨ s.phase = .full2) →
      exec .pstep s =
        .next { s with st := fullRound s.rom s.st r, ridx := BitVec.ofNat 8 (r.val + 1),
                       phase := phaseOf (r.val + 1),
                       busy := false, done := true, err := false, ecode := .none, elane := 0 }) ∧
    (∀ r : Fin 56, s.ridx.toNat = r.val → s.phase = .part →
      exec .pstep s =
        .next { s with st := partialRound s.rom s.st r, ridx := BitVec.ofNat 8 (r.val + 1),
                       phase := phaseOf (r.val + 1),
                       busy := false, done := true, err := false, ecode := .none, elane := 0 })

/-- R146, R31: the transition table of the scheduler, over every position it can be in. -/
def Obligations.PstepFollowsTheTable : Prop :=
  ∀ s : State, SchedOk s → cfgOk s.rom = true →
    ∃ t, exec .pstep s = .next t ∧
      (s.phase = .idle → t.phase = .idle ∧ t.ridx = 0 ∧ t.st = s.st ∧ t.ecode = .sequenceError) ∧
      (s.phase = .init → t.phase = .full1 ∧ t.ridx = 0 ∧ t.st = extLayer s.st ∧ t.done = true) ∧
      (s.phase = .full1 → ∃ r : Fin 56, s.ridx.toNat = r.val ∧ r.val < 4 ∧
        t.ridx.toNat = r.val + 1 ∧ t.phase = (if r.val < 3 then .full1 else .part) ∧
        t.st = fullRound s.rom s.st r ∧ t.done = true) ∧
      (s.phase = .part → ∃ r : Fin 56, s.ridx.toNat = r.val ∧ 4 ≤ r.val ∧ r.val < 52 ∧
        t.ridx.toNat = r.val + 1 ∧ t.phase = (if r.val < 51 then .part else .full2) ∧
        t.st = partialRound s.rom s.st r ∧ t.done = true) ∧
      (s.phase = .full2 → ∃ r : Fin 56, s.ridx.toNat = r.val ∧ 52 ≤ r.val ∧
        t.ridx.toNat = r.val + 1 ∧ t.phase = (if r.val < 55 then .full2 else .done) ∧
        t.st = fullRound s.rom s.st r ∧ t.done = true) ∧
      (s.phase = .done → t.phase = .done ∧ t.ridx = 56 ∧ t.st = s.st ∧ t.ecode = .sequenceError)

/-- R141: a full round: the constants and the seventh power on every lane, then the external
layer. It is stated of every configuration and every r: for an RC entry that is F or more, and for the r
of a partial round, R141 says nothing, and the statement rests on log entry 11 (DEDUCED) and on the
model's function. -/
def Obligations.FullRoundFormula : Prop :=
  ∀ (rom : Rom) (s : Lanes Fe) (r : Fin 56),
    fullRound rom s r =
      extLayer (Lanes.ofFn fun k =>
        Fe.ofNat (((s.get k).val + ((rom.rc[r]).get k).toNat) ^ 7))

/-- R142: a partial round: the constant and the seventh power on lane 0 alone, then the internal
layer; the padding entries are never read. It is stated of every configuration and every r: for an entry
of RC or D that is F or more, and for the r of a full round, R142 says nothing, and the statement rests
on log entry 11 (DEDUCED) and on the model's function. -/
def Obligations.PartialRoundFormula : Prop :=
  (∀ (rom : Rom) (s : Lanes Fe) (r : Fin 56),
    partialRound rom s r =
      intLayer rom.d { s with l0 := Fe.ofNat ((s.l0.val + (rom.rc[r]).l0.toNat) ^ 7) }) ∧
  (∀ (rom rom' : Rom) (s : Lanes Fe) (r : Fin 56), rom.d = rom'.d →
    (rom.rc[r]).l0 = (rom'.rc[r]).l0 → partialRound rom s r = partialRound rom' s r)

/-- R140, R143, R144: the permutation is the initial external layer and then exactly 56 rounds, in
order, full where r < 4 or r ≥ 52 and partial otherwise. -/
def Obligations.PermuteIsTheSchedule : Prop :=
  ∀ (rom : Rom) (x : Lanes Fe), ∃ st : Nat → Lanes Fe,
    st 0 = extLayer x ∧
    (∀ r : Fin 56, st (r.val + 1) =
      if r.val < 4 ∨ 52 ≤ r.val then fullRound rom (st r.val) r
      else partialRound rom (st r.val) r) ∧
    permute rom x = st 56

/-- R147: PERMUTE. -/
def Obligations.PermuteWritesThePermutedState : Prop :=
  encode .permute = 0x08 ∧ ∀ s : State, cfgOk s.rom = true →
    ((∀ k : Fin 8, (s.inReg.get k).toNat < F) →
      exec .permute s =
        .next { s with st := permute s.rom (Lanes.ofFn fun k => Fe.ofNat (s.inReg.get k).toNat)
                       phase := .done, ridx := 56,
                       busy := false, done := true, err := false, ecode := .none, elane := 0 }) ∧
    (∀ k : Fin 8, (∀ j : Fin 8, j.val < k.val → (s.inReg.get j).toNat < F) →
      F ≤ (s.inReg.get k).toNat →
      exec .permute s = .next { s with busy := false, done := false, err := true,
                                       ecode := .invalidInput, elane := BitVec.ofNat 4 k.val })

/-- R149: PSTART and then 57 PSTEPs leave the ST and SCHED that PERMUTE leaves, and a 58th PSTEP
fails with SequenceError and changes nothing but STATUS. -/
def Obligations.SteppingEqualsPermute : Prop :=
  ∀ s : State, cfgOk s.rom = true → (∀ k : Fin 8, (s.inReg.get k).toNat < F) →
    ∃ t u, issueAll (.pstart :: List.replicate 57 .pstep) s = .next t ∧
      issue .permute s = .next u ∧
      t = { u with cmd := encode .pstep } ∧ t.phase = .done ∧ t.ridx = 56 ∧ t.done = true ∧
      issue .pstep t = .next { t with done := false, err := true, ecode := .sequenceError }

/-- R35, R144: the padding entries affect no command: with a ROM that differs only there, every
command does the same. (SchedOk rules out a PSTEP that runs a full round with a partial round's
index, which no run reaches, R31.) -/
def Obligations.PaddingAffectsNoCommand : Prop :=
  ∀ (i : Instr) (s t : State) (rom' : Rom), SchedOk s → MeaningfulAgree s.rom rom' →
    exec i s = .next t →
    exec i { s with rom := rom' } = .next { t with rom := rom' }

/-- R151: the permutation is a bijection exactly when the internal layer is. It is stated of every
configuration: without CFGOK = 1 the entries are taken modulo F (log entry 11, DEDUCED). -/
def Obligations.PermuteIsABijectionIffIntLayerIs : Prop :=
  ∀ rom : Rom, Function.Bijective (permute rom) ↔ Function.Bijective (intLayer rom.d)

/-! ## The hash -/

/-- R171: HASH. -/
def Obligations.HashIsLaneZeroOfThePermutedInputs : Prop :=
  encode .hash = 0x09 ∧ ∀ s : State, cfgOk s.rom = true →
    ((∀ k : Fin 8, k.val < 7 → (s.inReg.get k).toNat < F) →
      ∃ y : Lanes Fe,
        y = permute s.rom
          ⟨Fe.ofNat s.inReg.l0.toNat, Fe.ofNat s.inReg.l1.toNat, Fe.ofNat s.inReg.l2.toNat,
           Fe.ofNat s.inReg.l3.toNat, Fe.ofNat s.inReg.l4.toNat, Fe.ofNat s.inReg.l5.toNat,
           Fe.ofNat s.inReg.l6.toNat, Fe.ofNat 129127208515966861312⟩ ∧
        exec .hash s =
          .next { s with st := y, fres := y.l0, phase := .done, ridx := 56,
                         busy := false, done := true, err := false, ecode := .none,
                         elane := 0 }) ∧
    (∀ k : Fin 8, k.val < 7 → (∀ j : Fin 8, j.val < k.val → (s.inReg.get j).toNat < F) →
      F ≤ (s.inReg.get k).toNat →
      exec .hash s = .next { s with busy := false, done := false, err := true,
                                    ecode := .invalidInput, elane := BitVec.ofNat 4 k.val })

/-- R172, R171: the outcome of HASH depends on the configuration and IN0..IN6 alone. -/
def Obligations.HashDependsOnlyOnItsInputs : Prop :=
  ∀ s1 s2 t1 t2 : State, s1.rom = s2.rom →
    (∀ k : Fin 8, k.val < 7 → s1.inReg.get k = s2.inReg.get k) →
    exec .hash s1 = .next t1 → exec .hash s2 = .next t2 →
    t1.done = t2.done ∧ t1.err = t2.err ∧ t1.ecode = t2.ecode ∧ t1.elane = t2.elane ∧
      (t1.done = true →
        t1.st = t2.st ∧ t1.fres = t2.fres ∧ t1.phase = t2.phase ∧ t1.ridx = t2.ridx)

/-- R208, R171: one hash through the host port: seven writes, the command, the unit's step, and two
reads give STATUS = 0x0012 and the digest. That the inputs are a list and
that `reads` keeps the values read is the model's choice (log entries 4 and 5). -/
def Obligations.OneHashThroughThePort : Prop :=
  ∀ (s : State) (m0 m1 m2 m3 m4 m5 m6 : U256), cfgOk s.rom = true → s.busy = false →
    m0.toNat < F → m1.toNat < F → m2.toNat < F → m3.toNat < F → m4.toNat < F → m5.toNat < F →
    m6.toNat < F →
    s.inputs = [.write 0x000 m0, .write 0x001 m1, .write 0x002 m2, .write 0x003 m3,
      .write 0x004 m4, .write 0x005 m5, .write 0x006 m6, .write 0x011 0x09, .unitTurn,
      .read 0x012, .read 0x010] →
    ∃ t, run 11 s = .next t ∧ t.inputs = [] ∧ t.busy = false ∧
      t.reads =
        BitVec.ofNat 256 (permute s.rom
          ⟨Fe.ofNat m0.toNat, Fe.ofNat m1.toNat, Fe.ofNat m2.toNat, Fe.ofNat m3.toNat,
           Fe.ofNat m4.toNat, Fe.ofNat m5.toNat, Fe.ofNat m6.toNat,
           Fe.ofNat 129127208515966861312⟩).l0.val :: 0x12 :: s.reads

/-! ## Errors -/

/-- R33: what CFGOK = 1 says of the configuration. -/
def Obligations.CfgOkMeansMeaningfulEntriesCanonical : Prop :=
  ∀ rom : Rom, cfgOk rom = true ↔
    (∀ (r : Fin 56) (i : Fin 8), (r.val < 4 ∨ 52 ≤ r.val ∨ i = 0) →
      ((rom.rc[r]).get i).toNat < F) ∧
    ∀ i : Fin 8, (rom.d.get i).toNat < F

/-- R183: when CFGOK = 0 every accepted word, legal or not, completes with ConfigurationError(0) and
changes nothing else. -/
def Obligations.BadConfigurationFailsEveryCommand : Prop :=
  ∀ (s : State) (rest : List Input), SchedOk s → UnitMoves s rest → s.busy = true →
    cfgOk s.rom = false →
    step s = .next { s with inputs := rest, busy := false, done := false, err := true,
                            ecode := .configurationError, elane := 0 }

/-- R184: a command that meets a non-canonical operand reports the lowest such lane and changes
nothing else. -/
def Obligations.InvalidInputReportsTheLowestLane : Prop :=
  ∀ (i : Instr) (k : Fin 8) (s : State), k.val < checkedLanes i → cfgOk s.rom = true →
    (∀ j : Fin 8, j.val < k.val → (s.inReg.get j).toNat < F) → F ≤ (s.inReg.get k).toNat →
    exec i s = .next { s with busy := false, done := false, err := true,
                              ecode := .invalidInput, elane := BitVec.ofNat 4 k.val }

/-- R181: a command that fails records its error and changes nothing else. -/
def Obligations.FailedCommandHasNoOtherEffect : Prop :=
  ∀ (s t : State) (rest : List Input), UnitMoves s rest → s.busy = true → step s = .next t →
    t.err = true →
    t = { s with inputs := rest, busy := false, done := false, err := true, ecode := t.ecode,
                 elane := t.elane } ∧
    ((t.ecode = .invalidInput ∧ ∃ k : Fin 8, t.elane = BitVec.ofNat 4 k.val) ∨
     (t.ecode = .configurationError ∧ t.elane = 0) ∨
     (t.ecode = .illegalCommand ∧ t.elane = 0) ∨
     (t.ecode = .sequenceError ∧ t.elane = 0))

/-- R182: the order in which errors are reported. -/
def Obligations.ErrorsAreReportedInOrder : Prop :=
  ∀ (s t : State) (rest : List Input), UnitMoves s rest → s.busy = true → step s = .next t →
    t.err = true →
    t.ecode =
      if cfgOk s.rom = false then .configurationError
      else if s.cmd.toNat = 0 ∨ 9 < s.cmd.toNat then .illegalCommand
      else if s.cmd.toNat = 7 then .sequenceError
      else .invalidInput

/-- R28: a completion reports exactly one of success and failure. -/
def Obligations.CompletionReportsExactlyOneOutcome : Prop :=
  ∀ (s t : State) (rest : List Input), UnitMoves s rest → s.busy = true → step s = .next t →
    t.busy = false ∧
    ((t.done = true ∧ t.err = false ∧ t.ecode = .none ∧ t.elane = 0) ∨
     (t.done = false ∧ t.err = true ∧ t.ecode ≠ .none))

/-- R29: HERR is set only by a host write the unit does not perform, and cleared only by acceptance
and by reset. -/
def Obligations.HostErrorFlagIsSticky : Prop :=
  ∀ s t : State, step s = .next t →
    (s.herr = false → t.herr = true →
      ∃ idx v rest, s.inputs = .write idx v :: rest ∧
        (s.busy = true ∨ (8 ≤ idx.toNat ∧ idx.toNat ≠ 0x011))) ∧
    (s.herr = true → t.herr = false →
      (∃ v rest, s.inputs = .write 0x011 v :: rest ∧ s.busy = false) ∨
      ∃ rest, s.inputs = .reset :: rest)

/-! ## What commands do and do not touch -/

/-- R85, R184: a command whose checked operands are canonical succeeds. PSTEP, which checks none and
has its own condition, is in PstepMakesOneTransition. -/
def Obligations.CommandsCompleteOnCanonicalOperands : Prop :=
  ∀ (i : Instr) (s : State), i ≠ .pstep → cfgOk s.rom = true →
    (∀ k : Fin 8, k.val < checkedLanes i → (s.inReg.get k).toNat < F) →
    ∃ t, exec i s = .next t ∧ t.done = true ∧ t.err = false ∧ t.busy = false

/-- R21, R22, R23, R85: no command writes IN, CMD, HERR or the configuration; FRES is written only
by a successful FADD, FMUL, SBOX or HASH, and ST and SCHED only by a successful EXTL, INTL, PSTART,
PSTEP, PERMUTE or HASH. -/
def Obligations.CommandsWriteOnlyTheirRegisters : Prop :=
  ∀ (i : Instr) (s t : State), exec i s = .next t →
    t.inReg = s.inReg ∧ t.cmd = s.cmd ∧ t.herr = s.herr ∧ t.rom = s.rom ∧
    t.inputs = s.inputs ∧ t.reads = s.reads ∧ t.draws = s.draws ∧
    (t.fres = s.fres ∨
      (t.done = true ∧ (i = .fadd ∨ i = .fmul ∨ i = .sbox ∨ i = .hash))) ∧
    ((t.st = s.st ∧ t.phase = s.phase ∧ t.ridx = s.ridx) ∨
      (t.done = true ∧ (i = .extl ∨ i = .intl ∨ i = .pstart ∨ i = .pstep ∨ i = .permute ∨
        i = .hash)))

/-! ## The whole machine -/

/-- R31, R27, R28: every step keeps the state well formed. -/
def Obligations.StepKeepsTheStateWellFormed : Prop :=
  ∀ s t : State, StateOk s → step s = .next t → StateOk t

/-- R189, R31: from a well-formed state no step stops: the unit has no trap and no fault. -/
def Obligations.WellFormedStatesNeverStop : Prop :=
  ∀ s : State, StateOk s → ∃ t, step s = .next t

/-- R28, R84: DONE = 1 is reported only for a word that is a command, whatever reaches the unit. -/
def Obligations.DoneIsReportedOnlyForCommands : Prop :=
  ∀ s t : State, (s.done = true → ∃ i, decode s.cmd = .ok i) → step s = .next t →
    (t.done = true → ∃ i, decode t.cmd = .ok i)

/-- R65, R202: no step changes the configuration, which State carries by the model's choice (log
entry 1). -/
def Obligations.StepKeepsTheConfiguration : Prop :=
  ∀ s t : State, step s = .next t → t.rom = s.rom

/-- R210 with the model's scheduling (log entry 4): a run that takes in everything that reaches the
unit, and one turn more, leaves no command outstanding. -/
def Obligations.EveryRunCompletesItsCommands : Prop :=
  ∀ s : State, StateOk s →
    ∃ t, run (s.inputs.length + 1) s = .next t ∧ t.inputs = [] ∧ t.busy = false

/-- R62, R206: whether a write to an operand comes before or after the unit's step, the command's
results are the same; the orders differ in HERR and in the operand. -/
def Obligations.OperandRaceLeavesTheResult : Prop :=
  ∀ (s : State) (idx : Index) (v : U256), StateOk s → s.busy = true → idx.toNat < 8 →
    ∃ t1 t2,
      run 2 { s with inputs := [.unitTurn, .write idx v] } = .next t1 ∧
      run 2 { s with inputs := [.write idx v, .unitTurn] } = .next t2 ∧
      t1.st = t2.st ∧ t1.fres = t2.fres ∧ t1.phase = t2.phase ∧ t1.ridx = t2.ridx ∧
      t1.done = t2.done ∧ t1.err = t2.err ∧ t1.ecode = t2.ecode ∧ t1.elane = t2.elane ∧
      t1.herr = s.herr ∧ t2.herr = true ∧
      (∀ k : Fin 8, t1.inReg.get k = if k.val = idx.toNat then v else s.inReg.get k) ∧
      t2.inReg = s.inReg

/-! ## The host's side -/

/-- R86, R88: a host statement acts on the unit exactly as its bus transaction does, and a statement
without one leaves the unit alone. How the host agent is laid out is
the model's choice (log entry 16). -/
def Obligations.HostStatementsAreBusTransactions : Prop :=
  ∀ (h h' : HostAgent) (s t : State), hostTurn h s = .moved h' t →
    match busTransaction h with
    | some i => ∀ rest, step { s with inputs := i :: rest } = .next { t with inputs := rest }
    | none => t = s

/-- The model's choice (log entry 15, PRESUMED): under either of its two byte orders, its bridge gives
back the word whose bytes it laid out, and lays out 32 bytes. R55 leaves the byte order open and puts the
bridge outside the unit. -/
def Obligations.BridgeGivesBackTheWord : Prop :=
  ∀ (o : ByteOrder) (w : U256),
    (bridgeBytes o w).length = 32 ∧ bridgeWord o (bridgeBytes o w) = w
end

