-- ==== Sys2Proof/Laws/Decode.lean ====
section
/-! SUPPORT. The fields of a command word as numbers, and the decoder in those terms. -/

namespace Sys2Proof

theorem rsvField_toNat (w : U256) : (rsvField w).toNat = w.toNat / 2 ^ 8 := by
  have := w.isLt
  rw [rsvField, BitVec.extractLsb'_toNat, Nat.shiftRight_eq_div_pow, Nat.mod_eq_of_lt]
  omega

theorem opcField_toNat (w : U256) : (opcField w).toNat = w.toNat % 2 ^ 8 := by
  simp [opcField, BitVec.extractLsb'_toNat]

/-- The decoder looks at the number of the word alone. -/
theorem decode_eq (w : U256) :
    decode w =
      if w.toNat / 2 ^ 8 ≠ 0 then .error .reservedBits
      else if w.toNat % 2 ^ 8 = 0 then .error .opcodeZero
      else
        match instrOfOpcode (w.toNat % 2 ^ 8) with
        | some i => .ok i
        | none => .error (.opcodeUnassigned (opcField w)) := by
  have hr : rsvField w ≠ 0 ↔ w.toNat / 2 ^ 8 ≠ 0 := by
    rw [← rsvField_toNat, ne_eq, ne_eq, not_iff_not, ← BitVec.toNat_inj]
    rfl
  have ho : opcField w = 0 ↔ w.toNat % 2 ^ 8 = 0 := by
    rw [← opcField_toNat, ← BitVec.toNat_inj]
    rfl
  unfold decode
  simp only [hr, ho, opcField_toNat] <;> rfl

theorem opcode_of_instrOfOpcode {n : Nat} {i : Instr} (h : instrOfOpcode n = some i) :
    n = (opcode i).toNat := by
  unfold instrOfOpcode at h
  split at h <;> first | (injection h with h; subst h; rfl) | cases h

end Sys2Proof
end

