-- ==== Sys2Proof/Laws/Field.lean ====
section
/-! SUPPORT. What the field operations compute, as numbers (spec/00_scope.md R15, spec/40_field.md R105). -/

namespace Sys2Proof.Machine

@[simp] theorem Fe.ofNat_val (n : Nat) : (Fe.ofNat n).val = n % F := rfl

@[simp] theorem add_val (a b : Fe) : (add a b).val = (a.val + b.val) % F := rfl

@[simp] theorem mul_val (a b : Fe) : (mul a b).val = (a.val * b.val) % F := rfl

@[simp] theorem romFe_val (v : U256) : (romFe v).val = v.toNat % F := rfl

/-- A canonical number is its own residue. -/
theorem Fe.ofNat_self (x : Fe) : Fe.ofNat x.val = x := Fin.ext (Nat.mod_eq_of_lt x.isLt)

/-- An Fe fits the 256-bit register it is read through. -/
@[simp] theorem feWord_toNat (x : Fe) : (feWord x).toNat = x.val := by
  have h : x.val < 2 ^ 256 := Nat.lt_trans x.isLt (by decide)
  exact Nat.mod_eq_of_lt h

theorem laneSum_val (x : Lanes Fe) :
    (laneSum x).val =
      (x.l0.val + x.l1.val + x.l2.val + x.l3.val + x.l4.val + x.l5.val + x.l6.val + x.l7.val) % F := by
  simp [laneSum, Nat.mod_add_mod]

end Sys2Proof.Machine
end

