-- ==== Sys2Proof/Laws/Lanes.lean ====
section
/-! SUPPORT. Reading and replacing lanes. -/

namespace Sys2Proof.Lanes

/-- Two lane vectors with the same lanes are the same. -/
theorem ext_get {α : Type} {v w : Lanes α} (h : ∀ k, v.get k = w.get k) : v = w := by
  cases v; cases w
  simp only [Lanes.mk.injEq]
  exact ⟨h 0, h 1, h 2, h 3, h 4, h 5, h 6, h 7⟩

/-- The replaced lane reads as the new value, every other lane as before. -/
theorem get_set {α : Type} (v : Lanes α) (k j : Fin 8) (x : α) :
    (v.set k x).get j = if j = k then x else v.get j := by
  fin_cases k <;> fin_cases j <;> rfl

@[simp] theorem get_ofFn {α : Type} (f : Fin 8 → α) (k : Fin 8) : (ofFn f).get k = f k := by
  fin_cases k <;> rfl

@[simp] theorem get_const {α : Type} (x : α) (k : Fin 8) : (const x).get k = x := by
  fin_cases k <;> rfl

@[simp] theorem get_zipWith {α β γ : Type} (f : α → β → γ) (v : Lanes α) (w : Lanes β) (k : Fin 8) :
    (zipWith f v w).get k = f (v.get k) (w.get k) := by
  fin_cases k <;> rfl

/-- `all` says that the predicate holds of every lane. -/
theorem all_iff {α : Type} (p : α → Bool) (v : Lanes α) : v.all p = true ↔ ∀ k, p (v.get k) = true := by
  simp only [all, Bool.and_eq_true]
  constructor
  · rintro ⟨⟨⟨⟨⟨⟨⟨h0, h1⟩, h2⟩, h3⟩, h4⟩, h5⟩, h6⟩, h7⟩ k
    fin_cases k <;> assumption
  · intro h
    exact ⟨⟨⟨⟨⟨⟨⟨h 0, h 1⟩, h 2⟩, h 3⟩, h 4⟩, h 5⟩, h 6⟩, h 7⟩

end Sys2Proof.Lanes
end

