-- ==== Sys2Proof/Laws/State.lean ====
section
/-! SUPPORT. One lemma per field of State per update of it, true by rfl. -/

namespace Sys2Proof.Machine

/-! `accept` -/

@[simp] theorem accept_inReg (w : U256) (s : State) :
    (accept w s).inReg = s.inReg := rfl
@[simp] theorem accept_st (w : U256) (s : State) :
    (accept w s).st = s.st := rfl
@[simp] theorem accept_fres (w : U256) (s : State) :
    (accept w s).fres = s.fres := rfl
@[simp] theorem accept_cmd (w : U256) (s : State) :
    (accept w s).cmd = w := rfl
@[simp] theorem accept_busy (w : U256) (s : State) :
    (accept w s).busy = true := rfl
@[simp] theorem accept_done (w : U256) (s : State) :
    (accept w s).done = false := rfl
@[simp] theorem accept_err (w : U256) (s : State) :
    (accept w s).err = false := rfl
@[simp] theorem accept_herr (w : U256) (s : State) :
    (accept w s).herr = false := rfl
@[simp] theorem accept_ecode (w : U256) (s : State) :
    (accept w s).ecode = .none := rfl
@[simp] theorem accept_elane (w : U256) (s : State) :
    (accept w s).elane = 0 := rfl
@[simp] theorem accept_phase (w : U256) (s : State) :
    (accept w s).phase = s.phase := rfl
@[simp] theorem accept_ridx (w : U256) (s : State) :
    (accept w s).ridx = s.ridx := rfl
@[simp] theorem accept_rom (w : U256) (s : State) :
    (accept w s).rom = s.rom := rfl
@[simp] theorem accept_inputs (w : U256) (s : State) :
    (accept w s).inputs = s.inputs := rfl
@[simp] theorem accept_reads (w : U256) (s : State) :
    (accept w s).reads = s.reads := rfl
@[simp] theorem accept_draws (w : U256) (s : State) :
    (accept w s).draws = s.draws := rfl

/-! `raise` -/

@[simp] theorem raise_inReg (e : CmdError) (s : State) :
    (raise e s).inReg = s.inReg := rfl
@[simp] theorem raise_st (e : CmdError) (s : State) :
    (raise e s).st = s.st := rfl
@[simp] theorem raise_fres (e : CmdError) (s : State) :
    (raise e s).fres = s.fres := rfl
@[simp] theorem raise_cmd (e : CmdError) (s : State) :
    (raise e s).cmd = s.cmd := rfl
@[simp] theorem raise_busy (e : CmdError) (s : State) :
    (raise e s).busy = false := rfl
@[simp] theorem raise_done (e : CmdError) (s : State) :
    (raise e s).done = false := rfl
@[simp] theorem raise_err (e : CmdError) (s : State) :
    (raise e s).err = true := rfl
@[simp] theorem raise_herr (e : CmdError) (s : State) :
    (raise e s).herr = s.herr := rfl
@[simp] theorem raise_ecode (e : CmdError) (s : State) :
    (raise e s).ecode = errorCode e := rfl
@[simp] theorem raise_elane (e : CmdError) (s : State) :
    (raise e s).elane = errorLane e := rfl
@[simp] theorem raise_phase (e : CmdError) (s : State) :
    (raise e s).phase = s.phase := rfl
@[simp] theorem raise_ridx (e : CmdError) (s : State) :
    (raise e s).ridx = s.ridx := rfl
@[simp] theorem raise_rom (e : CmdError) (s : State) :
    (raise e s).rom = s.rom := rfl
@[simp] theorem raise_inputs (e : CmdError) (s : State) :
    (raise e s).inputs = s.inputs := rfl
@[simp] theorem raise_reads (e : CmdError) (s : State) :
    (raise e s).reads = s.reads := rfl
@[simp] theorem raise_draws (e : CmdError) (s : State) :
    (raise e s).draws = s.draws := rfl

/-! `succeed` -/

@[simp] theorem succeed_inReg (s : State) :
    (succeed s).inReg = s.inReg := rfl
@[simp] theorem succeed_st (s : State) :
    (succeed s).st = s.st := rfl
@[simp] theorem succeed_fres (s : State) :
    (succeed s).fres = s.fres := rfl
@[simp] theorem succeed_cmd (s : State) :
    (succeed s).cmd = s.cmd := rfl
@[simp] theorem succeed_busy (s : State) :
    (succeed s).busy = false := rfl
@[simp] theorem succeed_done (s : State) :
    (succeed s).done = true := rfl
@[simp] theorem succeed_err (s : State) :
    (succeed s).err = false := rfl
@[simp] theorem succeed_herr (s : State) :
    (succeed s).herr = s.herr := rfl
@[simp] theorem succeed_ecode (s : State) :
    (succeed s).ecode = .none := rfl
@[simp] theorem succeed_elane (s : State) :
    (succeed s).elane = 0 := rfl
@[simp] theorem succeed_phase (s : State) :
    (succeed s).phase = s.phase := rfl
@[simp] theorem succeed_ridx (s : State) :
    (succeed s).ridx = s.ridx := rfl
@[simp] theorem succeed_rom (s : State) :
    (succeed s).rom = s.rom := rfl
@[simp] theorem succeed_inputs (s : State) :
    (succeed s).inputs = s.inputs := rfl
@[simp] theorem succeed_reads (s : State) :
    (succeed s).reads = s.reads := rfl
@[simp] theorem succeed_draws (s : State) :
    (succeed s).draws = s.draws := rfl

/-! `hostError` -/

@[simp] theorem hostError_inReg (s : State) :
    (hostError s).inReg = s.inReg := rfl
@[simp] theorem hostError_st (s : State) :
    (hostError s).st = s.st := rfl
@[simp] theorem hostError_fres (s : State) :
    (hostError s).fres = s.fres := rfl
@[simp] theorem hostError_cmd (s : State) :
    (hostError s).cmd = s.cmd := rfl
@[simp] theorem hostError_busy (s : State) :
    (hostError s).busy = s.busy := rfl
@[simp] theorem hostError_done (s : State) :
    (hostError s).done = s.done := rfl
@[simp] theorem hostError_err (s : State) :
    (hostError s).err = s.err := rfl
@[simp] theorem hostError_herr (s : State) :
    (hostError s).herr = true := rfl
@[simp] theorem hostError_ecode (s : State) :
    (hostError s).ecode = s.ecode := rfl
@[simp] theorem hostError_elane (s : State) :
    (hostError s).elane = s.elane := rfl
@[simp] theorem hostError_phase (s : State) :
    (hostError s).phase = s.phase := rfl
@[simp] theorem hostError_ridx (s : State) :
    (hostError s).ridx = s.ridx := rfl
@[simp] theorem hostError_rom (s : State) :
    (hostError s).rom = s.rom := rfl
@[simp] theorem hostError_inputs (s : State) :
    (hostError s).inputs = s.inputs := rfl
@[simp] theorem hostError_reads (s : State) :
    (hostError s).reads = s.reads := rfl
@[simp] theorem hostError_draws (s : State) :
    (hostError s).draws = s.draws := rfl

/-! `advance` -/

@[simp] theorem advance_inReg (s : State) (r : Fin 56) (x : Lanes Fe) :
    (advance s r x).inReg = s.inReg := rfl
@[simp] theorem advance_st (s : State) (r : Fin 56) (x : Lanes Fe) :
    (advance s r x).st = x := rfl
@[simp] theorem advance_fres (s : State) (r : Fin 56) (x : Lanes Fe) :
    (advance s r x).fres = s.fres := rfl
@[simp] theorem advance_cmd (s : State) (r : Fin 56) (x : Lanes Fe) :
    (advance s r x).cmd = s.cmd := rfl
@[simp] theorem advance_busy (s : State) (r : Fin 56) (x : Lanes Fe) :
    (advance s r x).busy = s.busy := rfl
@[simp] theorem advance_done (s : State) (r : Fin 56) (x : Lanes Fe) :
    (advance s r x).done = s.done := rfl
@[simp] theorem advance_err (s : State) (r : Fin 56) (x : Lanes Fe) :
    (advance s r x).err = s.err := rfl
@[simp] theorem advance_herr (s : State) (r : Fin 56) (x : Lanes Fe) :
    (advance s r x).herr = s.herr := rfl
@[simp] theorem advance_ecode (s : State) (r : Fin 56) (x : Lanes Fe) :
    (advance s r x).ecode = s.ecode := rfl
@[simp] theorem advance_elane (s : State) (r : Fin 56) (x : Lanes Fe) :
    (advance s r x).elane = s.elane := rfl
@[simp] theorem advance_phase (s : State) (r : Fin 56) (x : Lanes Fe) :
    (advance s r x).phase = phaseOf (r.val + 1) := rfl
@[simp] theorem advance_ridx (s : State) (r : Fin 56) (x : Lanes Fe) :
    (advance s r x).ridx = BitVec.ofNat 8 (r.val + 1) := rfl
@[simp] theorem advance_rom (s : State) (r : Fin 56) (x : Lanes Fe) :
    (advance s r x).rom = s.rom := rfl
@[simp] theorem advance_inputs (s : State) (r : Fin 56) (x : Lanes Fe) :
    (advance s r x).inputs = s.inputs := rfl
@[simp] theorem advance_reads (s : State) (r : Fin 56) (x : Lanes Fe) :
    (advance s r x).reads = s.reads := rfl
@[simp] theorem advance_draws (s : State) (r : Fin 56) (x : Lanes Fe) :
    (advance s r x).draws = s.draws := rfl

/-! `hostRead` -/

@[simp] theorem hostRead_inReg (idx : Index) (s : State) :
    (hostRead idx s).inReg = s.inReg := rfl
@[simp] theorem hostRead_st (idx : Index) (s : State) :
    (hostRead idx s).st = s.st := rfl
@[simp] theorem hostRead_fres (idx : Index) (s : State) :
    (hostRead idx s).fres = s.fres := rfl
@[simp] theorem hostRead_cmd (idx : Index) (s : State) :
    (hostRead idx s).cmd = s.cmd := rfl
@[simp] theorem hostRead_busy (idx : Index) (s : State) :
    (hostRead idx s).busy = s.busy := rfl
@[simp] theorem hostRead_done (idx : Index) (s : State) :
    (hostRead idx s).done = s.done := rfl
@[simp] theorem hostRead_err (idx : Index) (s : State) :
    (hostRead idx s).err = s.err := rfl
@[simp] theorem hostRead_herr (idx : Index) (s : State) :
    (hostRead idx s).herr = s.herr := rfl
@[simp] theorem hostRead_ecode (idx : Index) (s : State) :
    (hostRead idx s).ecode = s.ecode := rfl
@[simp] theorem hostRead_elane (idx : Index) (s : State) :
    (hostRead idx s).elane = s.elane := rfl
@[simp] theorem hostRead_phase (idx : Index) (s : State) :
    (hostRead idx s).phase = s.phase := rfl
@[simp] theorem hostRead_ridx (idx : Index) (s : State) :
    (hostRead idx s).ridx = s.ridx := rfl
@[simp] theorem hostRead_rom (idx : Index) (s : State) :
    (hostRead idx s).rom = s.rom := rfl
@[simp] theorem hostRead_inputs (idx : Index) (s : State) :
    (hostRead idx s).inputs = s.inputs := rfl
@[simp] theorem hostRead_reads (idx : Index) (s : State) :
    (hostRead idx s).reads = memRead (Config.draw s.draws) idx s :: s.reads := rfl
@[simp] theorem hostRead_draws (idx : Index) (s : State) :
    (hostRead idx s).draws = s.draws + 1 := rfl

/-! `resetInput` -/

@[simp] theorem resetInput_inReg (s : State) :
    (resetInput s).inReg = Lanes.const 0 := rfl
@[simp] theorem resetInput_st (s : State) :
    (resetInput s).st = Lanes.const ⟨0, by decide⟩ := rfl
@[simp] theorem resetInput_fres (s : State) :
    (resetInput s).fres = ⟨0, by decide⟩ := rfl
@[simp] theorem resetInput_cmd (s : State) :
    (resetInput s).cmd = 0 := rfl
@[simp] theorem resetInput_busy (s : State) :
    (resetInput s).busy = false := rfl
@[simp] theorem resetInput_done (s : State) :
    (resetInput s).done = false := rfl
@[simp] theorem resetInput_err (s : State) :
    (resetInput s).err = false := rfl
@[simp] theorem resetInput_herr (s : State) :
    (resetInput s).herr = false := rfl
@[simp] theorem resetInput_ecode (s : State) :
    (resetInput s).ecode = .none := rfl
@[simp] theorem resetInput_elane (s : State) :
    (resetInput s).elane = 0 := rfl
@[simp] theorem resetInput_phase (s : State) :
    (resetInput s).phase = .idle := rfl
@[simp] theorem resetInput_ridx (s : State) :
    (resetInput s).ridx = 0 := rfl
@[simp] theorem resetInput_rom (s : State) :
    (resetInput s).rom = s.rom := rfl
@[simp] theorem resetInput_inputs (s : State) :
    (resetInput s).inputs = s.inputs := rfl
@[simp] theorem resetInput_reads (s : State) :
    (resetInput s).reads = s.reads := rfl
@[simp] theorem resetInput_draws (s : State) :
    (resetInput s).draws = s.draws := rfl

/-! `State.resetWith` -/

@[simp] theorem resetWith_inReg (rom : Rom) :
    (State.resetWith rom).inReg = Lanes.const 0 := rfl
@[simp] theorem resetWith_st (rom : Rom) :
    (State.resetWith rom).st = Lanes.const ⟨0, by decide⟩ := rfl
@[simp] theorem resetWith_fres (rom : Rom) :
    (State.resetWith rom).fres = ⟨0, by decide⟩ := rfl
@[simp] theorem resetWith_cmd (rom : Rom) :
    (State.resetWith rom).cmd = 0 := rfl
@[simp] theorem resetWith_busy (rom : Rom) :
    (State.resetWith rom).busy = false := rfl
@[simp] theorem resetWith_done (rom : Rom) :
    (State.resetWith rom).done = false := rfl
@[simp] theorem resetWith_err (rom : Rom) :
    (State.resetWith rom).err = false := rfl
@[simp] theorem resetWith_herr (rom : Rom) :
    (State.resetWith rom).herr = false := rfl
@[simp] theorem resetWith_ecode (rom : Rom) :
    (State.resetWith rom).ecode = .none := rfl
@[simp] theorem resetWith_elane (rom : Rom) :
    (State.resetWith rom).elane = 0 := rfl
@[simp] theorem resetWith_phase (rom : Rom) :
    (State.resetWith rom).phase = .idle := rfl
@[simp] theorem resetWith_ridx (rom : Rom) :
    (State.resetWith rom).ridx = 0 := rfl
@[simp] theorem resetWith_rom (rom : Rom) :
    (State.resetWith rom).rom = rom := rfl
@[simp] theorem resetWith_inputs (rom : Rom) :
    (State.resetWith rom).inputs = [] := rfl
@[simp] theorem resetWith_reads (rom : Rom) :
    (State.resetWith rom).reads = [] := rfl
@[simp] theorem resetWith_draws (rom : Rom) :
    (State.resetWith rom).draws = 0 := rfl

end Sys2Proof.Machine
end

