-- ==== Sys2Proof/Laws/Ops.lean ====
section
/-! SUPPORT. What the shared operations can do, said once: the operand checks, completion, the register map, host writes. -/

namespace Sys2Proof.Machine

/-! The operand checks (R184). -/

theorem operand_ok {s : State} {k : Fin 8} (h : (s.inReg.get k).toNat < F) :
    operand s k = .ok (Fe.ofNat (s.inReg.get k).toNat) := by
  simp only [operand, h, dif_pos]
  exact congrArg _ (Fin.ext (Nat.mod_eq_of_lt h).symm)

theorem operand_error {s : State} {k : Fin 8} (h : F ≤ (s.inReg.get k).toNat) :
    operand s k = .error (.invalidInput k) := by
  simp [operand, Nat.not_lt.mpr h]

/-- The checks read nothing but IN. -/
theorem operand_congr {s t : State} {k : Fin 8} (h : s.inReg.get k = t.inReg.get k) :
    operand s k = operand t k := by
  simp only [operand, h]

theorem operands2_ok {s : State} (h0 : (s.inReg.get 0).toNat < F) (h1 : (s.inReg.get 1).toNat < F) :
    operands2 s = .ok (Fe.ofNat (s.inReg.get 0).toNat, Fe.ofNat (s.inReg.get 1).toNat) := by
  simp only [operands2, operand_ok h0, operand_ok h1]

theorem operands7_ok {s : State} {last : Fe} (h : ∀ k : Fin 8, k.val < 7 → (s.inReg.get k).toNat < F) :
    operands7 s (.ok last) =
      .ok ⟨Fe.ofNat s.inReg.l0.toNat, Fe.ofNat s.inReg.l1.toNat, Fe.ofNat s.inReg.l2.toNat,
        Fe.ofNat s.inReg.l3.toNat, Fe.ofNat s.inReg.l4.toNat, Fe.ofNat s.inReg.l5.toNat,
        Fe.ofNat s.inReg.l6.toNat, last⟩ := by
  simp only [operands7, operand_ok (h 0 (by decide)), operand_ok (h 1 (by decide)),
    operand_ok (h 2 (by decide)), operand_ok (h 3 (by decide)), operand_ok (h 4 (by decide)),
    operand_ok (h 5 (by decide)), operand_ok (h 6 (by decide)), Lanes.get]

theorem operands8_ok {s : State} (h : ∀ k : Fin 8, (s.inReg.get k).toNat < F) :
    operands8 s = .ok (s.inReg.map fun v => Fe.ofNat v.toNat) := by
  rw [operands8, operand_ok (h 7), operands7_ok fun k _ => h k]
  rfl

/-- Seven checks in a row stop at the lowest lane that fails. -/
theorem operands7_error {s : State} {last : Except CmdError Fe} {k : Fin 8} (hk : k.val < 7)
    (hlow : ∀ j : Fin 8, j.val < k.val → (s.inReg.get j).toNat < F)
    (hbad : F ≤ (s.inReg.get k).toNat) : operands7 s last = .error (.invalidInput k) := by
  have low : ∀ j : Fin 8, j.val < k.val → operand s j = .ok (Fe.ofNat (s.inReg.get j).toNat) :=
    fun j hj => operand_ok (hlow j hj)
  have bad := operand_error hbad
  match k, hk, low, bad with
  | 0, _, _, bad => simp only [operands7, bad]
  | 1, _, low, bad => simp only [operands7, bad, low 0 (by decide)]
  | 2, _, low, bad => simp only [operands7, bad, low 0 (by decide), low 1 (by decide)]
  | 3, _, low, bad =>
    simp only [operands7, bad, low 0 (by decide), low 1 (by decide), low 2 (by decide)]
  | 4, _, low, bad =>
    simp only [operands7, bad, low 0 (by decide), low 1 (by decide), low 2 (by decide),
      low 3 (by decide)]
  | 5, _, low, bad =>
    simp only [operands7, bad, low 0 (by decide), low 1 (by decide), low 2 (by decide),
      low 3 (by decide), low 4 (by decide)]
  | 6, _, low, bad =>
    simp only [operands7, bad, low 0 (by decide), low 1 (by decide), low 2 (by decide),
      low 3 (by decide), low 4 (by decide), low 5 (by decide)]
  | 7, hk, _, _ => exact absurd hk (by decide)

theorem operands8_error {s : State} {k : Fin 8}
    (hlow : ∀ j : Fin 8, j.val < k.val → (s.inReg.get j).toNat < F)
    (hbad : F ≤ (s.inReg.get k).toNat) : operands8 s = .error (.invalidInput k) := by
  by_cases hk : k.val < 7
  · exact operands7_error hk hlow hbad
  · have h7 : k = 7 := by omega
    subst h7
    have low : ∀ j : Fin 8, j.val < 7 → operand s j = .ok (Fe.ofNat (s.inReg.get j).toNat) :=
      fun j hj => operand_ok (hlow j hj)
    simp only [operands8, operands7, operand_error hbad, low 0 (by decide), low 1 (by decide),
      low 2 (by decide), low 3 (by decide), low 4 (by decide), low 5 (by decide), low 6 (by decide)]

/-! Completion (R82, R181). -/

theorem complete_ok {α : Type} {s : State} {a : α} {write : α → State} (h : cfgOk s.rom = true) :
    complete s (.ok a) write = succeed (write a) := by
  simp [complete, h]

theorem complete_error {α : Type} {s : State} {e : CmdError} {write : α → State}
    (h : cfgOk s.rom = true) : complete s (.error e) write = raise e s := by
  simp [complete, h]

theorem complete_badConfig {α : Type} {s : State} {ops : Except CmdError α} {write : α → State}
    (h : cfgOk s.rom = false) : complete s ops write = raise .configurationError s := by
  simp [complete, h]

/-- All that completion can do: write and report success, or report an error and change nothing
else. -/
theorem complete_cases {α : Type} (s : State) (ops : Except CmdError α) (write : α → State) :
    (cfgOk s.rom = true ∧ ∃ a, ops = .ok a ∧ complete s ops write = succeed (write a)) ∨
    (cfgOk s.rom = true ∧ ∃ e, ops = .error e ∧ complete s ops write = raise e s) ∨
    (cfgOk s.rom = false ∧ complete s ops write = raise .configurationError s) := by
  cases hc : cfgOk s.rom with
  | false => exact .inr (.inr ⟨rfl, complete_badConfig hc⟩)
  | true =>
    cases ops with
    | ok a => exact .inl ⟨rfl, a, rfl, complete_ok hc⟩
    | error e => exact .inr (.inl ⟨rfl, e, rfl, complete_error hc⟩)

/-! The register map (R51). -/

theorem regAt_inp {idx : Index} (h : idx.toNat < 8) : regAt idx = some (.inp ⟨idx.toNat, h⟩) := by
  simp [regAt, h]

theorem regAt_cmd : regAt 0x011 = some .cmd := by decide

/-- What a host write can do (R53). -/
theorem memWrite_cases (idx : Index) (v : U256) (s : State) :
    (∃ h : idx.toNat < 8, s.busy = false ∧
      memWrite idx v s = { s with inReg := s.inReg.set ⟨idx.toNat, h⟩ v }) ∨
    (idx = 0x011 ∧ s.busy = false ∧ memWrite idx v s = accept v s) ∨
    (((idx.toNat < 8 ∨ idx = 0x011) → s.busy = true) ∧ memWrite idx v s = hostError s) := by
  by_cases h : idx.toNat < 8
  · cases hb : s.busy with
    | false => exact .inl ⟨h, rfl, by simp [memWrite, regAt_inp h, hb]⟩
    | true => exact .inr (.inr ⟨fun _ => rfl, by simp [memWrite, regAt_inp h, hb]⟩)
  · by_cases hc : idx = 0x011
    · subst hc
      cases hb : s.busy with
      | false => exact .inr (.inl ⟨rfl, rfl, by unfold memWrite; rw [regAt_cmd]; simp only [hb]; rfl⟩)
      | true => exact .inr (.inr ⟨fun _ => rfl, by unfold memWrite; rw [regAt_cmd]; simp only [hb]; rfl⟩)
    · refine .inr (.inr ⟨fun h' => absurd h' (not_or.mpr ⟨h, hc⟩), ?_⟩)
      have hn : idx.toNat ≠ 0x011 := fun e => hc (BitVec.eq_of_toNat_eq (by simpa using e))
      have hr : ∀ r, regAt idx = some r → (∀ k, r ≠ .inp k) ∧ r ≠ .cmd := by
        intro r hr
        simp only [regAt, h, hn, dite_false, ite_false] at hr
        split_ifs at hr <;> simp_all <;> subst hr <;> simp
      simp only [memWrite]
      cases hreg : regAt idx with
      | none => rfl
      | some r =>
        have := hr r hreg
        cases r with
        | inp k => exact absurd rfl (this.1 k)
        | cmd => exact absurd rfl this.2
        | st _ => rfl
        | fres => rfl
        | status => rfl
        | sched => rfl
        | params => rfl
        | rc _ _ => rfl
        | d _ => rfl

end Sys2Proof.Machine
end

