-- ==== Sys2Proof/Laws/Exec.lean ====
section
/-! SUPPORT. What a command and a step can do, said once: the inversion lemmas of exec, unitStep and step. -/

namespace Sys2Proof.Machine

/-- What a command that succeeds may have written (R85): the field commands FRES, HASH all of ST,
FRES and SCHED, the others ST and SCHED. -/
def Wrote (i : Instr) (s u : State) : Prop :=
  match i with
  | .fadd => u = { s with fres := u.fres }
  | .fmul => u = { s with fres := u.fres }
  | .sbox => u = { s with fres := u.fres }
  | .extl => u = { s with st := u.st, phase := .idle, ridx := 0 }
  | .intl => u = { s with st := u.st, phase := .idle, ridx := 0 }
  | .pstart => u = { s with st := u.st, phase := .init, ridx := 0 }
  | .pstep =>
    (s.phase = .init ∧ u = { s with st := u.st, phase := .full1 }) ∨
    ((s.phase = .full1 ∨ s.phase = .part ∨ s.phase = .full2) ∧
      ∃ r : Fin 56, s.ridx.toNat = r.val ∧ u = advance s r u.st)
  | .permute => u = { s with st := u.st, phase := .done, ridx := 56 }
  | .hash => u = { s with st := u.st, fres := u.st.l0, phase := .done, ridx := 56 }

/-- A completion in the shape every meaning has. -/
theorem complete_wrote {α : Type} (i : Instr) (s : State) (ops : Except CmdError α)
    (write : α → State) (hw : ∀ a, Wrote i s (write a)) :
    (cfgOk s.rom = true ∧ ∃ u, complete s ops write = succeed u ∧ Wrote i s u) ∨
    ∃ e, complete s ops write = raise e s := by
  rcases complete_cases s ops write with ⟨hc, a, -, h⟩ | ⟨-, e, -, h⟩ | ⟨-, h⟩
  · exact .inl ⟨hc, write a, h, hw a⟩
  · exact .inr ⟨e, h⟩
  · exact .inr ⟨_, h⟩

theorem stepRound_cases {s t : State} {round : Rom → Lanes Fe → Fin 56 → Lanes Fe}
    (hp : s.phase = .full1 ∨ s.phase = .part ∨ s.phase = .full2)
    (h : stepRound s round = .next t) :
    (cfgOk s.rom = true ∧ ∃ u, t = succeed u ∧ Wrote .pstep s u) ∨ ∃ e, t = raise e s := by
  unfold stepRound at h
  split at h
  · rename_i hr
    injection h with h
    subst h
    rcases complete_cases s (.ok (⟨s.ridx.toNat, hr⟩ : Fin 56))
      (fun r => advance s r (round s.rom s.st r)) with ⟨hc, a, ha, h⟩ | ⟨-, e, -, h⟩ | ⟨-, h⟩
    · injection ha with ha
      subst ha
      exact .inl ⟨hc, _, h, .inr ⟨hp, _, rfl, rfl⟩⟩
    · exact .inr ⟨e, h⟩
    · exact .inr ⟨_, h⟩
  · cases h

/-- All that a command can do: write what `Wrote` says and report success, or report an error and
change nothing else. -/
theorem exec_cases {i : Instr} {s t : State} (h : exec i s = .next t) :
    (cfgOk s.rom = true ∧ ∃ u, t = succeed u ∧ Wrote i s u) ∨ ∃ e, t = raise e s := by
  cases i with
  | fadd => injection h with h; subst h; exact complete_wrote _ _ _ _ fun _ => rfl
  | fmul => injection h with h; subst h; exact complete_wrote _ _ _ _ fun _ => rfl
  | sbox => injection h with h; subst h; exact complete_wrote _ _ _ _ fun _ => rfl
  | extl => injection h with h; subst h; exact complete_wrote _ _ _ _ fun _ => rfl
  | intl => injection h with h; subst h; exact complete_wrote _ _ _ _ fun _ => rfl
  | pstart => injection h with h; subst h; exact complete_wrote _ _ _ _ fun _ => rfl
  | permute => injection h with h; subst h; exact complete_wrote _ _ _ _ fun _ => rfl
  | hash => injection h with h; subst h; exact complete_wrote _ _ _ _ fun _ => rfl
  | pstep =>
    change execPstep s = .next t at h
    unfold execPstep at h
    split at h
    · injection h with h
      subst h
      cases hc : cfgOk s.rom with
      | true => exact .inr ⟨_, complete_error hc⟩
      | false => exact .inr ⟨_, complete_badConfig hc⟩
    · rename_i hp
      injection h with h
      subst h
      exact complete_wrote _ _ _ _ fun _ => .inl ⟨hp, rfl⟩
    · rename_i hp; exact stepRound_cases (.inl hp) h
    · rename_i hp; exact stepRound_cases (.inr (.inl hp)) h
    · rename_i hp; exact stepRound_cases (.inr (.inr hp)) h
    · injection h with h
      subst h
      cases hc : cfgOk s.rom with
      | true => exact .inr ⟨_, complete_error hc⟩
      | false => exact .inr ⟨_, complete_badConfig hc⟩

/-- An accepted word that is no command only reports an error. -/
theorem completeIllegal_cases (s : State) :
    (cfgOk s.rom = true ∧ completeIllegal s = raise .illegalCommand s) ∨
    (cfgOk s.rom = false ∧ completeIllegal s = raise .configurationError s) := by
  cases hc : cfgOk s.rom with
  | true => exact .inl ⟨rfl, complete_error hc⟩
  | false => exact .inr ⟨rfl, complete_badConfig hc⟩

/-- All that the unit's turn can do. -/
theorem unitStep_cases {s t : State} (h : unitStep s = .next t) :
    (s.busy = false ∧ t = s) ∨
    (s.busy = true ∧ cfgOk s.rom = true ∧
      ∃ i u, decode s.cmd = .ok i ∧ t = succeed u ∧ Wrote i s u) ∨
    (s.busy = true ∧ ∃ e, t = raise e s) := by
  unfold unitStep at h
  split at h
  · rename_i hb
    unfold completeCommand at h
    split at h
    · rename_i i hi
      rcases exec_cases h with ⟨hc, u, ht, hw⟩ | ⟨e, ht⟩
      · exact .inr (.inl ⟨hb, hc, i, u, hi, ht, hw⟩)
      · exact .inr (.inr ⟨hb, e, ht⟩)
    · injection h with h
      subst h
      rcases completeIllegal_cases s with ⟨-, h⟩ | ⟨-, h⟩
      · exact .inr (.inr ⟨hb, _, h⟩)
      · exact .inr (.inr ⟨hb, _, h⟩)
  · rename_i hb
    injection h with h
    exact .inl ⟨by simpa using hb, h.symm⟩

/-- All that a step can do: the unit's turn, or one input. -/
theorem step_cases {s t : State} (h : step s = .next t) :
    (s.inputs = [] ∧ unitStep s = .next t) ∨
    ∃ i rest, s.inputs = i :: rest ∧
      match i with
      | .unitTurn => unitStep { s with inputs := rest } = .next t
      | .read idx => t = hostRead idx { s with inputs := rest }
      | .write idx v => t = memWrite idx v { s with inputs := rest }
      | .reset => t = resetInput { s with inputs := rest } := by
  unfold step at h
  split at h
  · rename_i he; exact .inl ⟨he, h⟩
  · rename_i rest he; exact .inr ⟨_, rest, he, h⟩
  · rename_i idx rest he; injection h with h; exact .inr ⟨_, rest, he, h.symm⟩
  · rename_i idx v rest he; injection h with h; exact .inr ⟨_, rest, he, h.symm⟩
  · rename_i rest he; injection h with h; exact .inr ⟨_, rest, he, h.symm⟩

end Sys2Proof.Machine
end

