-- ==== Sys2Proof/Laws/PerInstr.lean ====
section
/-! SUPPORT. Facts about every command as syntax, one lemma per constructor (spec/30_encoding.md R83). -/

namespace Sys2Proof.Laws.WordOf

/-- R83: the command is well formed, its word has RSV = 0 and its own opcode in 0x01..0x09, and the
word decodes to it. -/
def Statement (i : Instr) : Prop :=
  i.wf = true ∧ rsvField (encode i) = 0 ∧ opcField (encode i) = opcode i ∧
    1 ≤ (opcode i).toNat ∧ (opcode i).toNat ≤ 9 ∧ decode (encode i) = .ok i

theorem fadd : Statement .fadd := by unfold Statement; decide
theorem fmul : Statement .fmul := by unfold Statement; decide
theorem sbox : Statement .sbox := by unfold Statement; decide
theorem extl : Statement .extl := by unfold Statement; decide
theorem intl : Statement .intl := by unfold Statement; decide
theorem pstart : Statement .pstart := by unfold Statement; decide
theorem pstep : Statement .pstep := by unfold Statement; decide
theorem permute : Statement .permute := by unfold Statement; decide
theorem hash : Statement .hash := by unfold Statement; decide

end Sys2Proof.Laws.WordOf
end

