-- ==== Sys2Proof/Laws/Prime.lean ====
section
/-! SUPPORT. F is prime (spec/00_scope.md R7), by a chain of Lucas certificates. -/

namespace Sys2Proof.Laws.Prime

/-- `a ^ e mod p` by squaring, for an exponent of at most `k` bits. -/
def powMod (p : Nat) (k a e : Nat) : Nat :=
  match k with
  | 0 => 1 % p
  | k + 1 => (if e % 2 = 1 then a else 1) * powMod p k (a * a % p) (e / 2) % p

theorem powMod_eq (p k : Nat) : ∀ a e : Nat, e < 2 ^ k → powMod p k a e = a ^ e % p := by
  induction k with
  | zero =>
    intro a e h
    have he : e = 0 := by omega
    subst he
    rfl
  | succ k ih =>
    intro a e h
    have he : a ^ e = (if e % 2 = 1 then a else 1) * (a * a) ^ (e / 2) := by
      rw [← pow_two, ← pow_mul]
      split
      · rw [← pow_succ']; congr 1; omega
      · rw [one_mul]; congr 1; omega
    rw [powMod, ih _ _ (by omega), Nat.mul_mod, Nat.mod_mod, ← Nat.pow_mod, ← Nat.mul_mod, he]

/-- The certificate: `l` is the factorisation of p - 1, and `a` has order p - 1 modulo p. -/
def certifies (p a : Nat) (l : List Nat) : Bool :=
  decide (1 < p) && decide (p < 2 ^ 256) && decide (p - 1 = l.prod) &&
    decide (powMod p 256 a (p - 1) = 1) &&
    l.all fun q => decide (powMod p 256 a ((p - 1) / q) ≠ 1)

theorem prime_of_certifies {p : Nat} (a : Nat) (l : List Nat) (h : certifies p a l = true)
    (hl : ∀ x ∈ l, x.Prime) : p.Prime := by
  simp only [certifies, Bool.and_eq_true, decide_eq_true_eq, List.all_eq_true] at h
  obtain ⟨⟨⟨⟨hp, hb⟩, hn⟩, h1⟩, hq⟩ := h
  have key : ∀ n, n < 2 ^ 256 → (((a : ZMod p)) ^ n = 1 ↔ powMod p 256 a n = 1) := by
    intro n hn
    have hc : ((a : ZMod p)) ^ n = 1 ↔ ((a ^ n : Nat) : ZMod p) = ((1 : Nat) : ZMod p) := by
      push_cast; rfl
    rw [hc, ZMod.natCast_eq_natCast_iff', Nat.mod_eq_of_lt hp, powMod_eq _ _ _ _ hn]
  refine lucas_primality p (a : ZMod p) ((key _ (by omega)).mpr h1) fun q hq' hd h => ?_
  rw [hn] at hd
  obtain ⟨x, hx, hqx⟩ := (Prime.dvd_prod_iff hq'.prime).mp hd
  rw [(Nat.prime_dvd_prime_iff_eq hq' (hl x hx)).mp hqx] at h
  exact hq x hx ((key _ (by have := Nat.div_le_self (p - 1) x; omega)).mp h)

theorem prime_405928799 : Nat.Prime 405928799 := by
  refine prime_of_certifies 22
    [2, 11, 3691, 4999] (by decide +kernel) ?_
  intro x hx
  simp only [List.mem_cons, List.not_mem_nil, or_false] at hx
  rcases hx with rfl | rfl | rfl | rfl
  all_goals first
    | norm_num

theorem prime_12048837557 : Nat.Prime 12048837557 := by
  refine prime_of_certifies 2
    [2, 2, 7, 7, 661, 93001] (by decide +kernel) ?_
  intro x hx
  simp only [List.mem_cons, List.not_mem_nil, or_false] at hx
  rcases hx with rfl | rfl | rfl | rfl | rfl | rfl
  all_goals first
    | norm_num

theorem prime_5156902474397 : Nat.Prime 5156902474397 := by
  refine prime_of_certifies 2
    [2, 2, 107, 12048837557] (by decide +kernel) ?_
  intro x hx
  simp only [List.mem_cons, List.not_mem_nil, or_false] at hx
  rcases hx with rfl | rfl | rfl | rfl
  all_goals first
    | exact prime_12048837557
    | norm_num

theorem prime_1670836401704629 : Nat.Prime 1670836401704629 := by
  refine prime_of_certifies 2
    [2, 2, 3, 3, 3, 3, 5156902474397] (by decide +kernel) ?_
  intro x hx
  simp only [List.mem_cons, List.not_mem_nil, or_false] at hx
  rcases hx with rfl | rfl | rfl | rfl | rfl | rfl | rfl
  all_goals first
    | exact prime_5156902474397
    | norm_num

theorem prime_1593227 : Nat.Prime 1593227 := by
  refine prime_of_certifies 2
    [2, 19, 41927] (by decide +kernel) ?_
  intro x hx
  simp only [List.mem_cons, List.not_mem_nil, or_false] at hx
  rcases hx with rfl | rfl | rfl
  all_goals first
    | norm_num

theorem prime_639533339 : Nat.Prime 639533339 := by
  refine prime_of_certifies 2
    [2, 229, 853, 1637] (by decide +kernel) ?_
  intro x hx
  simp only [List.mem_cons, List.not_mem_nil, or_false] at hx
  rcases hx with rfl | rfl | rfl | rfl
  all_goals first
    | norm_num

theorem prime_65865678001877903 : Nat.Prime 65865678001877903 := by
  refine prime_of_certifies 5
    [2, 83, 379, 1637, 639533339] (by decide +kernel) ?_
  intro x hx
  simp only [List.mem_cons, List.not_mem_nil, or_false] at hx
  rcases hx with rfl | rfl | rfl | rfl | rfl
  all_goals first
    | exact prime_639533339
    | norm_num

theorem prime_13818364434197438864469338081 : Nat.Prime 13818364434197438864469338081 := by
  refine prime_of_certifies 3
    [2, 2, 2, 2, 2, 5, 823, 1593227, 65865678001877903] (by decide +kernel) ?_
  intro x hx
  simp only [List.mem_cons, List.not_mem_nil, or_false] at hx
  rcases hx with rfl | rfl | rfl | rfl | rfl | rfl | rfl | rfl | rfl
  all_goals first
    | exact prime_1593227
    | exact prime_65865678001877903
    | norm_num

theorem prime_237073 : Nat.Prime 237073 := by
  refine prime_of_certifies 15
    [2, 2, 2, 2, 3, 11, 449] (by decide +kernel) ?_
  intro x hx
  simp only [List.mem_cons, List.not_mem_nil, or_false] at hx
  rcases hx with rfl | rfl | rfl | rfl | rfl | rfl | rfl
  all_goals first
    | norm_num

/-- R7: F is prime. -/
theorem F_prime : Nat.Prime F := by
  refine prime_of_certifies 5
    [2, 2, 2, 2, 2, 2, 2, 2, 2, 2, 2, 2, 2, 2, 2, 2, 2, 2, 2, 2, 2, 2, 2, 2, 2, 2, 2, 2, 3, 3,
      13, 29, 983, 11003, 237073, 405928799, 1670836401704629,
      13818364434197438864469338081] (by decide +kernel) ?_
  intro x hx
  simp only [List.mem_cons, List.not_mem_nil, or_false] at hx
  rcases hx with rfl | rfl | rfl | rfl | rfl | rfl | rfl | rfl | rfl | rfl | rfl | rfl | rfl | rfl | rfl | rfl | rfl | rfl | rfl | rfl | rfl | rfl | rfl | rfl | rfl | rfl | rfl | rfl | rfl | rfl | rfl | rfl | rfl | rfl | rfl | rfl | rfl | rfl
  all_goals first
    | exact prime_237073
    | exact prime_405928799
    | exact prime_1670836401704629
    | exact prime_13818364434197438864469338081
    | norm_num

end Sys2Proof.Laws.Prime
end

