-- ==== Sys2Proof/Laws/Run.lean ====
section
/-! SUPPORT. Runs of several steps, and the host interface's run. -/

namespace Sys2Proof.Machine

/-- A run of one step more begins with that step. -/
theorem run_succ {n : Nat} {s t : State} (h : step s = .next t) : run (n + 1) s = run n t := by
  simp only [run, h]

/-- The host interface runs the same steps. -/
theorem core_run_eq_run (n : Nat) (s : State) : Host.Core.run Sys2Proof.core n s = run n s := by
  induction n generalizing s with
  | zero => rfl
  | succ n ih =>
    refine (Host.Core.run.eq_2 Sys2Proof.core s n).trans ?_
    simp only [run]
    cases h : step s with
    | next t =>
      have h' : Host.Core.step Sys2Proof.core s = .next t := h
      simp only [h']
      exact ih t
    | fault r => exact nomatch r
    | refused r =>
      have h' : Host.Core.step Sys2Proof.core s = .refused r := h
      simp only [h']
      rfl

/-- A step that takes in an input leaves the inputs after it. -/
theorem step_inputs {s t : State} {i : Input} {rest : List Input} (he : s.inputs = i :: rest)
    (h : step s = .next t) : t.inputs = rest := by
  have unit : ∀ {u : State}, unitStep u = .next t → t.inputs = u.inputs := by
    intro u hu
    rcases unitStep_cases hu with ⟨-, rfl⟩ | ⟨-, -, i, u', -, rfl, hw⟩ | ⟨-, e, rfl⟩
    · rfl
    · cases i with
      | pstep =>
        rcases hw with ⟨-, hw⟩ | ⟨-, r, -, hw⟩
        · rw [hw]; rfl
        · rw [hw]; rfl
      | fadd => simp only [Wrote] at hw; rw [hw]; rfl
      | fmul => simp only [Wrote] at hw; rw [hw]; rfl
      | sbox => simp only [Wrote] at hw; rw [hw]; rfl
      | extl => simp only [Wrote] at hw; rw [hw]; rfl
      | intl => simp only [Wrote] at hw; rw [hw]; rfl
      | pstart => simp only [Wrote] at hw; rw [hw]; rfl
      | permute => simp only [Wrote] at hw; rw [hw]; rfl
      | hash => simp only [Wrote] at hw; rw [hw]; rfl
    · rfl
  rcases step_cases h with ⟨he', -⟩ | ⟨i', rest', he', h'⟩
  · rw [he] at he'; cases he'
  · rw [he] at he'
    injection he' with h1 h2
    subst h1; subst h2
    cases i with
    | unitTurn => exact unit h'
    | read idx => simp only at h'; subst h'; rfl
    | reset => simp only at h'; subst h'; rfl
    | write idx v =>
      simp only at h'; subst h'
      rcases memWrite_cases idx v { s with inputs := rest } with
        ⟨_, _, hx⟩ | ⟨_, _, hx⟩ | ⟨_, hx⟩ <;> rw [hx] <;> rfl

end Sys2Proof.Machine
end

