-- ==== Sys2Proof/Laws/Schedule.lean ====
section
/-! SUPPORT. The scheduler's phases and lists of rounds, and the S-box as a power. -/

namespace Sys2Proof.Machine

theorem phaseOf_spec (k : Nat) :
    (phaseOf k = .full1 ↔ k < 4) ∧ (phaseOf k = .part ↔ 4 ≤ k ∧ k < 52) ∧
    (phaseOf k = .full2 ↔ 52 ≤ k ∧ k < 56) ∧ (phaseOf k = .done ↔ 56 ≤ k) ∧
    phaseOf k ≠ .idle ∧ phaseOf k ≠ .init := by
  unfold phaseOf
  split_ifs <;> simp <;> omega

theorem mem_roundsFrom {lo hi : Nat} {r : Fin 56} :
    r ∈ roundsFrom lo hi ↔ lo ≤ r.val ∧ r.val < hi := by
  simp [roundsFrom]

/-- The three loops of R143 run over every round once, in order. -/
theorem rounds_split :
    List.finRange 56 = roundsFrom 0 4 ++ (roundsFrom 4 52 ++ roundsFrom 52 56) := by
  decide +kernel

theorem sbox_val (x : Fe) : (sbox x).val = x.val ^ 7 % F := by
  simp only [sbox, mul_val]
  generalize x.val = n
  have : n ^ 7 = (n * n) * (n * n) * (n * n) * n := by ring
  rw [this]
  simp only [Nat.mod_mul_mod, Nat.mul_mod_mod, Nat.mul_assoc]

theorem sbox_ofNat (n : Nat) : sbox (Fe.ofNat n) = Fe.ofNat (n ^ 7) := by
  apply Fin.ext
  rw [sbox_val, Fe.ofNat_val, Fe.ofNat_val, ← Nat.pow_mod]

end Sys2Proof.Machine
end

