-- ==== Sys2Proof/Laws/Step.lean ====
section
/-! SUPPORT. What one step is, by what reaches the unit, and the numbers that the host port shows. -/

namespace Sys2Proof.Machine

theorem step_of_unitMoves {s : State} {rest : List Input} (h : UnitMoves s rest) :
    step s = unitStep { s with inputs := rest } := by
  rcases h with ⟨h, rfl⟩ | h
  · unfold step
    rw [h]
    simp only
    rw [← h]
  · unfold step
    rw [h]

theorem step_of_read {s : State} {idx : Index} {rest : List Input}
    (h : s.inputs = .read idx :: rest) :
    step s = .next (hostRead idx { s with inputs := rest }) := by
  unfold step
  rw [h]

theorem step_of_write {s : State} {idx : Index} {v : U256} {rest : List Input}
    (h : s.inputs = .write idx v :: rest) :
    step s = .next (memWrite idx v { s with inputs := rest }) := by
  unfold step
  rw [h]

theorem step_of_reset {s : State} {rest : List Input} (h : s.inputs = .reset :: rest) :
    step s = .next (resetInput { s with inputs := rest }) := by
  unfold step
  rw [h]

theorem ecodeNum_lt (e : ECode) : ecodeNum e < 16 := by cases e <;> decide

theorem phaseNum_lt (p : Phase) : phaseNum p < 8 := by cases p <;> decide

/-- No field of STATUS is cut off. -/
theorem statusWord_toNat (s : State) :
    (statusWord s).toNat =
      s.elane.toNat * 2 ^ 12 + ecodeNum s.ecode * 2 ^ 8 + (cfgOk s.rom).toNat * 2 ^ 4
        + s.herr.toNat * 2 ^ 3 + s.err.toNat * 2 ^ 2 + s.done.toNat * 2 + s.busy.toNat := by
  have := s.elane.isLt
  have := ecodeNum_lt s.ecode
  have := Bool.toNat_le (cfgOk s.rom)
  have := Bool.toNat_le s.herr
  have := Bool.toNat_le s.err
  have := Bool.toNat_le s.done
  have := Bool.toNat_le s.busy
  rw [statusWord, BitVec.toNat_ofNat]
  omega

/-- No field of SCHED is cut off. -/
theorem schedWord_toNat (s : State) :
    (schedWord s).toNat = s.ridx.toNat * 2 ^ 8 + phaseNum s.phase := by
  have := s.ridx.isLt
  have := phaseNum_lt s.phase
  rw [schedWord, BitVec.toNat_ofNat]
  omega

theorem regIndex_inp (k : Fin 8) : (regIndex (.inp k)).toNat = k.val := by revert k; decide

theorem regIndex_st (k : Fin 8) : (regIndex (.st k)).toNat = 0x008 + k.val := by revert k; decide

theorem regIndex_rc (r : Fin 56) (i : Fin 8) :
    (regIndex (.rc r i)).toNat = 0x100 + 8 * r.val + i.val := by
  rw [regIndex, BitVec.toNat_ofNat]
  omega

theorem regIndex_d (i : Fin 8) : (regIndex (.d i)).toNat = 0x2C0 + i.val := by revert i; decide

end Sys2Proof.Machine
end

