-- ==== Sys2Proof/Laws/ZMod.lean ====
section
/-! SUPPORT. Field elements as residues: an injective map to ZMod F that turns add, mul and sbox into +, · and the seventh power, so that ring can prove identities of field elements. -/

namespace Sys2Proof.Machine

/-- The residue class of a field element. -/
def residue (x : Fe) : ZMod F := (x.val : ZMod F)

/-- Equal residue classes come from equal field elements. -/
theorem residue_injective : Function.Injective residue := by
  intro x y h
  have h' := (ZMod.natCast_eq_natCast_iff' x.val y.val F).mp h
  rw [Nat.mod_eq_of_lt x.isLt, Nat.mod_eq_of_lt y.isLt] at h'
  exact Fin.ext h'

@[simp] theorem residue_ofNat (n : Nat) : residue (Fe.ofNat n) = (n : ZMod F) :=
  (ZMod.natCast_eq_natCast_iff' _ _ F).mpr (Nat.mod_mod n F)

@[simp] theorem residue_add (a b : Fe) : residue (add a b) = residue a + residue b := by
  rw [add, residue_ofNat, Nat.cast_add]; rfl

@[simp] theorem residue_mul (a b : Fe) : residue (mul a b) = residue a * residue b := by
  rw [mul, residue_ofNat, Nat.cast_mul]; rfl

/-- R106: the addition chain computes the seventh power. -/
@[simp] theorem residue_sbox (x : Fe) : residue (sbox x) = residue x ^ 7 := by
  simp only [sbox, residue_mul]; ring

@[simp] theorem residue_romFe (v : U256) : residue (romFe v) = (v.toNat : ZMod F) :=
  residue_ofNat _

/-- Every residue class is one of a field element. -/
theorem residue_surjective : Function.Surjective residue := by
  intro z
  refine ⟨Fe.ofNat z.val, ?_⟩
  rw [residue_ofNat, ZMod.natCast_val, ZMod.cast_id', id]

end Sys2Proof.Machine
end

