-- ==== Sys2Proof/Tests/Slice0.lean ====
section
/-! SUPPORT. Tests on the spec's own vectors (spec/95_test_vectors.md), smoke tests of well-formedness and decoding, and, for every statement with hypotheses, a witness that meets them. -/

namespace Sys2Proof.Tests

open Sys2Proof.Machine Sys2Proof.Asm

set_option Elab.async false

/-! ## Helpers: the test configurations of spec/95_test_vectors.md section 1 -/

/-- TD = (1, ..., 8). -/
def testD : Lanes U256 := ⟨1, 2, 3, 4, 5, 6, 7, 8⟩

/-- The row r of TC1. -/
def rowTC1 (r : Fin 56) : Lanes U256 :=
  Lanes.ofFn fun i =>
    if r.val < 4 ∨ 52 ≤ r.val ∨ i = 0 then BitVec.ofNat 256 (8 * r.val + i.val + 1) else 0

/-- TC1. -/
def romTC1 : Rom := { rc := Vector.ofFn rowTC1, d := testD }

/-- TCB: as TC1, but D[3] = F. -/
def romTCB : Rom := { romTC1 with d := testD.set 3 (BitVec.ofNat 256 F) }

/-- TCP: as TC1, but the padding entry RC[4][1] = F. -/
def romTCP : Rom :=
  { romTC1 with rc := romTC1.rc.set 4 ((rowTC1 4).set 1 (BitVec.ofNat 256 F)) }

/-- TCM: as TC1, but the meaningful entry RC[4][0] = F. -/
def romTCM : Rom :=
  { romTC1 with rc := romTC1.rc.set 4 ((rowTC1 4).set 0 (BitVec.ofNat 256 F)) }

/-- The number n in a register. -/
def u (n : Nat) : U256 := BitVec.ofNat 256 n

/-- After reset, with a configuration and the IN registers loaded. -/
def loaded (rom : Rom) (v : Lanes U256) : State := { State.resetWith rom with inReg := v }

/-- IN = (n, n + 1, ..., n + 7). -/
def countFrom (n : Nat) : Lanes U256 := Lanes.ofFn fun k => u (n + k.val)

/-- `f` of the next state; none where there is none. -/
def onNext {α : Type} (f : State → α) (o : Host.Outcome State Fault Refusal) : Option α :=
  match o with
  | .next t => some (f t)
  | .fault _ => none
  | .refused _ => none

/-- The lanes of ST. -/
def stList (t : State) : List Nat :=
  [t.st.l0.val, t.st.l1.val, t.st.l2.val, t.st.l3.val, t.st.l4.val, t.st.l5.val, t.st.l6.val,
   t.st.l7.val]

/-- The STATUS and SCHED words. -/
def statusSched (t : State) : Nat × Nat := ((statusWord t).toNat, (schedWord t).toNat)

/-! ## Well-formedness: terms each check refuses -/

theorem test_cond_refuses_empty_field : (Cond.mk "x" 0 3 true 0).wf = false := by decide
theorem test_cond_refuses_bit_256 : (Cond.mk "x" 256 0 true 0).wf = false := by decide
theorem test_cond_refuses_wide_literal : (Cond.mk "x" 2 0 true 8).wf = false := by decide
theorem test_cond_accepts : (Cond.mk "p" 2 0 false 5).wf = true := by decide
theorem test_program_refuses_missing_label : programWf [.goto "here"] = false := by decide
theorem test_program_refuses_label_twice :
    programWf [.label "here", .label "here"] = false := by decide
theorem test_program_refuses_bad_condition :
    programWf [.label "here", .ifGoto ⟨"x", 0, 3, true, 0⟩ "here"] = false := by decide
theorem test_program_accepts_wait : programWf (expand (.wait "t" "lw")) = true := by decide

/-! ## Decoding: words written out bit by bit from R80 and R83 -/

/-- RSV of zeros, then OPC bit 7 down to bit 0. -/
def wordOfBits (b7 b6 b5 b4 b3 b2 b1 b0 : Bool) : U256 :=
  u (b7.toNat * 128 + b6.toNat * 64 + b5.toNat * 32 + b4.toNat * 16 + b3.toNat * 8 + b2.toNat * 4
    + b1.toNat * 2 + b0.toNat)

theorem test_decode_fadd : decode (wordOfBits false false false false false false false true) = .ok .fadd := by
  decide
theorem test_decode_fmul : decode (wordOfBits false false false false false false true false) = .ok .fmul := by
  decide
theorem test_decode_sbox : decode (wordOfBits false false false false false false true true) = .ok .sbox := by
  decide
theorem test_decode_extl : decode (wordOfBits false false false false false true false false) = .ok .extl := by
  decide
theorem test_decode_intl : decode (wordOfBits false false false false false true false true) = .ok .intl := by
  decide
theorem test_decode_pstart : decode (wordOfBits false false false false false true true false) = .ok .pstart := by
  decide
theorem test_decode_pstep : decode (wordOfBits false false false false false true true true) = .ok .pstep := by
  decide
theorem test_decode_permute : decode (wordOfBits false false false false true false false false) = .ok .permute := by
  decide
theorem test_decode_hash : decode (wordOfBits false false false false true false false true) = .ok .hash := by
  decide

theorem test_decode_refuses_zero : decode 0 = .error .opcodeZero := by decide
theorem test_decode_refuses_ff : decode 0xFF = .error (.opcodeUnassigned 0xFF) := by decide
theorem test_decode_refuses_rsv : decode 0x109 = .error .reservedBits := by decide
theorem test_decode_refuses_top_bit : decode (u (2 ^ 255 + 9)) = .error .reservedBits := by
  decide +kernel
theorem test_table_word_fadd : decodeTableWord 256 1 = some .fadd := by decide
theorem test_table_word_fmul : decodeTableWord 256 2 = some .fmul := by decide
theorem test_table_word_sbox : decodeTableWord 256 3 = some .sbox := by decide
theorem test_table_word_extl : decodeTableWord 256 4 = some .extl := by decide
theorem test_table_word_intl : decodeTableWord 256 5 = some .intl := by decide
theorem test_table_word_pstart : decodeTableWord 256 6 = some .pstart := by decide
theorem test_table_word_pstep : decodeTableWord 256 7 = some .pstep := by decide
theorem test_table_word_permute : decodeTableWord 256 8 = some .permute := by decide
theorem test_table_word_hash : decodeTableWord 256 9 = some .hash := by decide

/-! ## The commands, on the spec's vectors -/

/-- V-F4. -/
theorem test_fadd_wraps :
    onNext (fun t => (t.fres.val, (statusWord t).toNat))
      (exec .fadd (loaded romTC1 ⟨u (F - 1), u (F - 1), 0, 0, 0, 0, 0, 0⟩)) =
      some (F - 2, 0x0012) := by decide +kernel
/-- V-F7. -/
theorem test_fadd_rejects_lane_1 :
    onNext (fun t => (t.fres.val, (statusWord t).toNat))
      (exec .fadd (loaded romTC1 ⟨0, u (2 ^ 256 - 1), 0, 0, 0, 0, 0, 0⟩)) =
      some (0, 0x1114) := by decide +kernel
/-- V-F12. -/
theorem test_fmul_reduces :
    onNext (fun t => (t.fres.val, (statusWord t).toNat))
      (exec .fmul (loaded romTC1 ⟨u (2 ^ 128), u (2 ^ 128), 0, 0, 0, 0, 0, 0⟩)) =
      some (6350874878119819312338956282401532410528162663560392320966563075034087161851, 0x0012) := by
  decide +kernel
/-- V-F13. -/
theorem test_fmul_rejects_lane_1 :
    onNext (fun t => (t.fres.val, (statusWord t).toNat))
      (exec .fmul (loaded romTC1 ⟨7, u F, 0, 0, 0, 0, 0, 0⟩)) = some (0, 0x1114) := by decide +kernel
/-- V-F21. -/
theorem test_sbox_of_two_to_64 :
    onNext (fun t => (t.fres.val, (statusWord t).toNat))
      (exec .sbox (loaded romTC1 ⟨u (2 ^ 64), 0, 0, 0, 0, 0, 0, 0⟩)) =
      some (2773513243014253929314076065552037079459508680524609755064685713740055180570, 0x0012) := by
  decide +kernel
/-- V-F22: IN1 is not checked. -/
theorem test_sbox_ignores_in1 :
    onNext (fun t => (t.fres.val, (statusWord t).toNat))
      (exec .sbox (loaded romTC1 ⟨2, u F, 0, 0, 0, 0, 0, 0⟩)) = some (128, 0x0012) := by
  decide +kernel
/-- V-L8. -/
theorem test_extl_of_one_to_eight :
    onNext (fun t => (stList t, statusSched t)) (exec .extl (loaded romTC1 (countFrom 1))) =
      some ([166, 117, 214, 165, 230, 165, 278, 213], 0x0012, 0) := by decide +kernel
/-- V-L11. -/
theorem test_extl_rejects_lowest_lane :
    onNext (fun t => (stList t, statusSched t))
      (exec .extl (loaded romTC1 ⟨0, 0, 0, 0, 0, u F, 0, u (2 ^ 256 - 1)⟩)) =
      some ([0, 0, 0, 0, 0, 0, 0, 0], 0x5114, 0) := by decide +kernel
/-- V-L15. -/
theorem test_intl_of_one_to_eight :
    onNext (fun t => (stList t, statusSched t)) (exec .intl (loaded romTC1 (countFrom 1))) =
      some ([37, 40, 45, 52, 61, 72, 85, 100], 0x0012, 0) := by decide +kernel
/-- V-L13. -/
theorem test_intl_of_minus_one :
    onNext (fun t => (stList t, statusSched t))
      (exec .intl (loaded romTC1 (Lanes.const (u (F - 1))))) =
      some ([F - 9, F - 10, F - 11, F - 12, F - 13, F - 14, F - 15, F - 16], 0x0012, 0) := by
  decide +kernel
/-- R145, example. -/
theorem test_pstart_loads :
    onNext (fun t => (stList t, statusSched t)) (exec .pstart (loaded romTC1 (countFrom 0))) =
      some ([0, 1, 2, 3, 4, 5, 6, 7], 0x0012, 0x0001) := by decide +kernel
/-- V-P11. -/
theorem test_pstart_rejects_lane_3 :
    onNext (fun t => (stList t, statusSched t))
      (exec .pstart (loaded romTC1 ⟨0, 0, 0, u F, 0, 0, 0, 0⟩)) =
      some ([0, 0, 0, 0, 0, 0, 0, 0], 0x3114, 0) := by decide +kernel
/-- Section 5.2, step 2: the first full round. -/
theorem test_pstep_full_round :
    onNext (fun t => (stList t, statusSched t))
      (exec .pstep { State.resetWith romTC1 with
        st := ⟨Fe.ofNat 118,
         Fe.ofNat 81,
         Fe.ofNat 166,
         Fe.ofNat 129,
         Fe.ofNat 182,
         Fe.ofNat 129,
         Fe.ofNat 230,
         Fe.ofNat 177⟩
        phase := .full1 }) =
    some ([126001636541333056,
     98680273316912108,
     322877028877580656,
     262371516233406908,
     227927037406148000,
     178796364616917964,
     569976414800853200,
     463148760416195164],
      0x0012, 0x0102) := by decide +kernel
/-- Section 5.2, step 6: the first partial round. -/
theorem test_pstep_partial_round :
    onNext (fun t => (stList t, statusSched t))
      (exec .pstep { State.resetWith romTC1 with
        st := ⟨Fe.ofNat 6047256796664365197857015974312160455762832099695772445229907146104511560852,
         Fe.ofNat 13021097912793994636910223745201780203318115681000730975089751179432430594479,
         Fe.ofNat 2882680734467277466715301694281939965569473463911750287360869898782789787818,
         Fe.ofNat 4985042905284494542116264349447321840470215463380683292737444359966724038107,
         Fe.ofNat 5212750691038738774386870624914597384031022791054646482156707754375520003542,
         Fe.ofNat 19615482784681249839475230951483184886755619339301602795726300857221946987829,
         Fe.ofNat 11491140698322565114875794086769414539208649632127629466105130988728223280073,
         Fe.ofNat 5758981734874037652628595403636320529118107765937605732435621689175199746426⟩
        phase := .part, ridx := 4 }) =
    some ([7777088352124521012288225291458989881812096769378223069059080468247017039199,
     6693721552783240737902686200857147300406970814007812141269445490390265688652,
     11187810802436359086474549538556681879027524244157635396870757014449582358765,
     591697348333229632547296108242874255651601305529083362039720571392300652122,
     6715279182388945336016591835026573813925853407279582601873481903403004517404,
     10791450947925649611948001438323595860110997886151829590654931528553852444200,
     17313024871774656823719985827324938491134558076067687766429451679471350468971,
     4835136734348277462864596194286876038167237179091161706876712458351193975485],
      0x0012, 0x0503) := by decide +kernel
/-- V-P3. -/
theorem test_permute_of_zero_to_seven :
    onNext (fun t => (stList t, statusSched t)) (exec .permute (loaded romTC1 (countFrom 0))) =
    some ([2326774572966737714417176158033895102946442629603976516437393585349554838629,
     5614690103641946583944238586888709017426657546711902628853633710441514202938,
     8363487486700978558899672402257875789217695272422107661801309797772831252737,
     11211212613594365768995453100464825652484668643705436165625300612379593437173,
     6157963176531131060913187639741702365292069224903481310304028690794306786430,
     2755889613694236451642902428141152967656983175366328428846006035620677537553,
     5531287538539230273120480278328681267417153920418240710259224171754773009715,
     19605194599417060610700994647838674089822094138831071382591170900928365606477],
      0x0012, 0x3805) := by decide +kernel
/-- V-P6: a padding entry that is F changes nothing. -/
theorem test_permute_reads_no_padding :
    onNext (fun t => (stList t, statusSched t)) (exec .permute (loaded romTCP (countFrom 0))) =
      onNext (fun t => (stList t, statusSched t)) (exec .permute (loaded romTC1 (countFrom 0))) := by
  decide +kernel
/-- V-H4 (and V-H2): IN7 is neither read nor checked. -/
theorem test_hash_ignores_in7 :
    onNext (fun t => (stList t, t.fres.val, statusSched t))
      (exec .hash (loaded romTC1 ⟨1, 2, 3, 4, 5, 6, 7, u (2 ^ 256 - 1)⟩)) =
    some ([9099536126402099745715237121618883689886503716313700168110581303392708089762,
     616620927431195508434331736456410922350451177044787305068408795756428180982,
     14033902016343153450514913154178635782293258964024384655545916968294363380824,
     14227272594951524024293038881712201815856473683751771671692800400845575443728,
     7997172165741150955853938957587651696808040380027287994250355296035835349139,
     2821958281561806850166196277624981328556138161658689169283760386714341307513,
     5681343156107291618371459303416138217604109503157793695301878596725558821372,
     16790175984866804881645835897133594416869991663439175903731685260611662808164],
      9099536126402099745715237121618883689886503716313700168110581303392708089762,
      0x0012, 0x3805) := by decide +kernel
/-- V-H5. -/
theorem test_hash_rejects_lane_3 :
    onNext (fun t => (stList t, t.fres.val, statusSched t))
      (exec .hash (loaded romTC1 ⟨1, 2, 3, u F, 5, 6, 7, 0⟩)) =
      some ([0, 0, 0, 0, 0, 0, 0, 0], 0, 0x3114, 0) := by decide +kernel

/-! ## Errors, configuration and the host port -/

/-- Section 1, the CFGOK column. -/
theorem test_cfgOk :
    (cfgOk romTC1, cfgOk romTCB, cfgOk romTCP, cfgOk romTCM) = (true, false, true, false) := by
  decide +kernel
/-- V-P7. -/
theorem test_pstep_after_reset :
    onNext statusSched (exec .pstep (State.resetWith romTC1)) = some (0x0414, 0) := by
  decide +kernel
/-- V-E4. -/
theorem test_rsv_is_illegal :
    onNext statusSched (step ((loaded romTC1 (countFrom 1)).withFetchWord 256 0x109)) =
      some (0x0314, 0) := by decide +kernel
/-- V-E5: IllegalCommand comes before InvalidInput. -/
theorem test_illegal_before_invalid :
    onNext statusSched (step ((loaded romTC1 (countFrom F)).withFetchWord 256 0x0A)) =
      some (0x0314, 0) := by decide +kernel
/-- V-E7: ConfigurationError comes before IllegalCommand. -/
theorem test_configuration_before_illegal :
    onNext statusSched (step ((loaded romTCB (countFrom F)).withFetchWord 256 0x0A)) =
      some (0x0204, 0) := by decide +kernel
/-- V-E9: FADD fails too, although it reads no table. -/
theorem test_configuration_fails_fadd :
    onNext statusSched (exec .fadd (loaded romTCB (countFrom 1))) = some (0x0204, 0) := by
  decide +kernel
/-- V-E6, V-E10, V-E11. -/
theorem test_status_after_reset :
    [romTC1, romTCB, romTCM, romTCP].map (fun r => memRead 0 0x012 (State.resetWith r)) =
      [0x0010, 0, 0, 0x0010] := by decide +kernel
/-- V-E12. -/
theorem test_params : memRead 0 0x014 (State.resetWith romTC1) = 0x0707300808 := by decide +kernel
/-- V-E14 and V-E13: RC[0][0], RC[4][1], RC[55][7], D[7]. -/
theorem test_rom_reads :
    [0x100, 0x121, 0x2BF, 0x2C7].map (fun i => memRead 0 i (State.resetWith romTC1)) =
      [1, 0, 448, 8] := by decide +kernel
/-- V-E15. -/
theorem test_unmapped_reads_zero :
    [0x015, 0x3FF].map (fun i => memRead 7 i (State.resetWith romTC1)) = [0, 0] := by
  decide +kernel
/-- V-E16. -/
theorem test_write_to_st_sets_herr :
    (fun t => (stList t, (statusWord t).toNat)) (memWrite 0x008 5 (State.resetWith romTC1)) =
      ([0, 0, 0, 0, 0, 0, 0, 0], 0x0018) := by decide +kernel
/-- V-E18: a dropped write, and the command it did not disturb. -/
theorem test_write_while_busy :
    onNext (fun t => (t.inReg.l0.toNat, (statusWord t).toNat))
      (unitStep (memWrite 0x000 9 (accept 0x01 (loaded romTC1 (countFrom 1))))) =
      some (1, 0x001A) := by decide +kernel
/-- V-E20: the value read while busy is the draw. -/
theorem test_read_while_busy :
    [0x008, 0x010, 0x013, 0x011].map
      (fun i => memRead 77 i (accept 0x01 (loaded romTC1 (countFrom 1)))) = [77, 77, 77, 1] := by
  decide +kernel
/-- V-E21. -/
theorem test_reset_while_busy :
    (fun t => (t.cmd, t.inReg, (statusWord t).toNat))
      (resetInput (accept 0x08 (loaded romTC1 (countFrom 1)))) =
      (0, Lanes.const 0, 0x0010) := by decide +kernel
/-- R87, R88: `cmd FMUL` is the transaction `W 011 0x02`. -/
theorem test_cmd_fmul_transaction :
    busTransaction ⟨expand (.cmd .fmul), 0, []⟩ = some (.write 0x011 0x02) := by decide +kernel
/-- R87: the `wait` loop jumps back while STATUS[0] = 1. -/
theorem test_wait_loops_while_busy :
    hostTurn ⟨expand (.wait "t" "lw"), 2, [("t", 0x0011)]⟩ (State.resetWith romTC1) =
      .moved ⟨expand (.wait "t" "lw"), 0, [("t", 0x0011)]⟩ (State.resetWith romTC1) := by
  decide +kernel
/-- R55: little endian puts the least significant byte first. -/
theorem test_bridge_little_endian :
    (bridgeBytes .littleEndian 0x0102).take 3 = [0x02, 0x01, 0x00] := by decide +kernel


/-! ## Witnesses: a concrete state and operands that meet the hypotheses of each statement -/

/-- A next state that meets `p` exists where `onNext` says so. -/
theorem next_of_onNext {o : Host.Outcome State Fault Refusal} {p : State → Prop} [DecidablePred p]
    (h : onNext (fun t => decide (p t)) o = some true) : ∃ t, o = .next t ∧ p t := by
  cases o with
  | next t => exact ⟨t, rfl, by simpa [onNext] using h⟩
  | fault f => simp [onNext] at h
  | refused r => simp [onNext] at h

/-- The unit with the word `w` just accepted, and `IN` loaded. -/
def busyWith (rom : Rom) (w : U256) (v : Lanes U256) : State := accept w (loaded rom v)

/-- `s` with the given inputs. -/
def withInputs (s : State) (is : List Input) : State := { s with inputs := is }

/-- IN = all F - 1, the highest canonical value, but for lane `k`, which is F. -/
def firstBad (k : Fin 8) : Lanes U256 := (Lanes.const (u (F - 1))).set k (u F)

/-- A state in the middle of a stepped permutation. -/
def atRound (p : Phase) (r : Nat) : State :=
  { State.resetWith romTC1 with phase := p, ridx := BitVec.ofNat 8 r }

theorem witness_DecodeAndEncodeAgree :
    Instr.wf .fadd = true ∧ Instr.wf .hash = true ∧ encode .fadd = 0x01 ∧ encode .hash = 0x09 := by
  decide
/-- RSV = 1, OPC = 0, OPC = 0x0A; both ways the unit comes to move. -/
theorem witness_IllegalCommandIsReported :
    cfgOk romTC1 = true ∧
    ([0x109, 0x00, 0x0A, 0xFF, u (2 ^ 256 - 1)].all fun w : U256 => decide
      ((busyWith romTC1 w testD).busy = true ∧
      UnitMoves (busyWith romTC1 w testD) [] ∧
      UnitMoves (withInputs (busyWith romTC1 w testD) [.unitTurn, .reset]) [.reset] ∧
      (w.toNat / 2 ^ 8 ≠ 0 ∨ w.toNat % 2 ^ 8 = 0x00 ∨ 0x0A ≤ w.toNat % 2 ^ 8))) := by
  decide +kernel
theorem witness_StepRunsTheAcceptedCommand :
    ∀ i ∈ [Instr.fadd, .fmul, .sbox, .extl, .intl, .pstart, .pstep, .permute, .hash],
      UnitMoves (busyWith romTC1 (encode i) testD) [] ∧
      (busyWith romTC1 (encode i) testD).busy = true ∧
      decode (busyWith romTC1 (encode i) testD).cmd = .ok i := by decide +kernel
theorem witness_StepHoldsTheIdleUnit :
    UnitMoves (loaded romTC1 testD) [] ∧ (loaded romTC1 testD).busy = false ∧
    UnitMoves (withInputs (loaded romTC1 testD) [.unitTurn, .read 8]) [.read 8] := by
  decide +kernel
theorem witness_CommandIsAcceptedAndCompleted :
    (withInputs (loaded romTC1 testD) [.write 0x011 9]).inputs = .write 0x011 9 :: [] ∧
    (withInputs (loaded romTC1 testD) [.write 0x011 9]).busy = false ∧
    UnitMoves (busyWith romTC1 9 testD) [] ∧
    ∃ t, step (busyWith romTC1 9 testD) = .next t ∧ t.busy = false := by
  exact ⟨rfl, rfl, .inl ⟨rfl, rfl⟩, next_of_onNext (by decide +kernel)⟩
/-- Each clause at the ends of its range: 0, 7, 0x011, 8, 0x010, 0x012, 0x3FF, idle and busy. -/
theorem witness_HostWriteEffects :
    ([0x000, 0x007].all fun idx : Index => decide (idx.toNat < 8 ∧
      (withInputs (loaded romTC1 testD) [.write idx 5]).busy = false)) ∧
    ((0x011 : Index).toNat = 0x011 ∧
      (withInputs (loaded romTC1 testD) [.write 0x011 5]).busy = false) ∧
    ([0x000, 0x007, 0x011].all fun idx : Index => decide ((idx.toNat < 8 ∨ idx.toNat = 0x011) ∧
      (withInputs (busyWith romTC1 1 testD) [.write idx 5]).busy = true)) ∧
    ([0x008, 0x010, 0x012, 0x3FF].all fun idx : Index =>
      decide (8 ≤ idx.toNat ∧ idx.toNat ≠ 0x011)) ∧
    ([0x000, 0x007, 0x011, 0x008, 0x3FF].all fun idx : Index => decide
      ((withInputs (loaded romTC1 testD) [.write idx 5]).inputs = .write idx 5 :: [])) := by
  decide +kernel
/-- Each clause of the map at the ends of its range, idle and busy. -/
theorem witness_HostReadReturnsTheMap :
    ((0x000 : Index).toNat = (0 : Fin 8).val ∧ (0x007 : Index).toNat = (7 : Fin 8).val) ∧
    ((0x008 : Index).toNat = 0x008 + (0 : Fin 8).val ∧
      (0x00F : Index).toNat = 0x008 + (7 : Fin 8).val) ∧
    (loaded romTC1 testD).busy = false ∧ (busyWith romTC1 1 testD).busy = true ∧
    ((0x010 : Index).toNat = 0x010 ∧ (0x011 : Index).toNat = 0x011 ∧
      (0x012 : Index).toNat = 0x012 ∧ (0x013 : Index).toNat = 0x013 ∧
      (0x014 : Index).toNat = 0x014) ∧
    ([0x008, 0x00F, 0x010, 0x013].all fun idx : Index =>
      decide ((8 ≤ idx.toNat ∧ idx.toNat ≤ 0x010) ∨ idx.toNat = 0x013)) ∧
    ((0x100 : Index).toNat = 0x100 + 8 * (0 : Fin 56).val + (0 : Fin 8).val ∧
      (0x2BF : Index).toNat = 0x100 + 8 * (55 : Fin 56).val + (7 : Fin 8).val) ∧
    ((0x2C0 : Index).toNat = 0x2C0 + (0 : Fin 8).val ∧
      (0x2C7 : Index).toNat = 0x2C0 + (7 : Fin 8).val) ∧
    ([0x015, 0x0FF, 0x2C8, 0x3FF].all fun idx : Index =>
      decide ((0x015 ≤ idx.toNat ∧ idx.toNat < 0x100) ∨ 0x2C8 ≤ idx.toNat)) ∧
    (withInputs (loaded romTC1 testD) [.read 0x000, .unitTurn]).inputs =
      .read 0x000 :: [.unitTurn] := by decide +kernel
theorem witness_OnlyResultReadsWhileBusyAreFree :
    (busyWith romTC1 1 testD).busy = true ∧ (loaded romTC1 testD).busy = false ∧
    ([0x008, 0x010, 0x013].all fun idx : Index =>
      decide ((8 ≤ idx.toNat ∧ idx.toNat ≤ 0x010) ∨ idx.toNat = 0x013)) ∧
    ([0x007, 0x011, 0x012, 0x014].all fun idx : Index =>
      decide (¬((8 ≤ idx.toNat ∧ idx.toNat ≤ 0x010) ∨ idx.toNat = 0x013))) := by decide +kernel
theorem witness_SchedWordFields : (atRound .done 56).busy = false := by decide
theorem witness_RegisterMapIsOneToOne :
    regAt 0x2BF = some (.rc 55 7) ∧ regAt 0x2C0 = some (.d 0) ∧ regAt 0x00F = some (.st 7) := by
  decide
/-- A host read, and a dropped host write, while busy. -/
theorem witness_RegistersAreStableWhileBusy :
    ∀ i ∈ [Input.read 0x008, .write 0x000 5, .write 0x011 5],
      (withInputs (busyWith romTC1 1 testD) [i]).busy = true ∧
      ∃ t, step (withInputs (busyWith romTC1 1 testD) [i]) = .next t ∧ t.busy = true := by
  intro i hi
  simp only [List.mem_cons, List.not_mem_nil, or_false] at hi
  rcases hi with rfl | rfl | rfl <;> exact ⟨rfl, next_of_onNext (by decide +kernel)⟩
theorem witness_ResultReadsAreCanonical :
    (loaded romTC1 testD).busy = false ∧
    ([0x008, 0x00F, 0x010].all fun idx : Index =>
      decide (8 ≤ idx.toNat ∧ idx.toNat ≤ 0x010)) := by decide
theorem witness_ResetInputSetsEveryRegister :
    (withInputs (busyWith romTC1 8 testD) [.reset, .read 1]).inputs = .reset :: [.read 1] := rfl
theorem witness_RegistersReadZeroAfterReset :
    ([0x000, 0x011, 0x013].all fun idx : Index =>
      decide (idx.toNat < 0x012 ∨ idx.toNat = 0x013)) ∧
    (0x012 : Index).toNat = 0x012 := by decide
/-- IN0 = F; IN0 = F - 1 and IN1 = F; both F - 1. -/
theorem witness_FaddAddsModuloF :
    cfgOk romTC1 = true ∧ F ≤ ((loaded romTC1 (firstBad 0)).inReg.get 0).toNat ∧
    (((loaded romTC1 (firstBad 1)).inReg.get 0).toNat < F ∧
      F ≤ ((loaded romTC1 (firstBad 1)).inReg.get 1).toNat) ∧
    (((loaded romTC1 (firstBad 2)).inReg.get 0).toNat < F ∧
      ((loaded romTC1 (firstBad 2)).inReg.get 1).toNat < F) := by decide +kernel
/-- IN0 = 2^256 - 1; IN0 = 0 and IN1 = F; both F - 1. -/
theorem witness_FmulMultipliesModuloF :
    cfgOk romTC1 = true ∧
    F ≤ ((loaded romTC1 (Lanes.const (u (2 ^ 256 - 1)))).inReg.get 0).toNat ∧
    (((loaded romTC1 ⟨0, u F, 0, 0, 0, 0, 0, 0⟩).inReg.get 0).toNat < F ∧
      F ≤ ((loaded romTC1 ⟨0, u F, 0, 0, 0, 0, 0, 0⟩).inReg.get 1).toNat) ∧
    (((loaded romTC1 (firstBad 7)).inReg.get 0).toNat < F ∧
      ((loaded romTC1 (firstBad 7)).inReg.get 1).toNat < F) := by decide +kernel
theorem witness_SboxIsTheSeventhPower :
    cfgOk romTC1 = true ∧ F ≤ ((loaded romTC1 (firstBad 0)).inReg.get 0).toNat ∧
    ((loaded romTC1 (firstBad 1)).inReg.get 0).toNat < F := by decide +kernel

/-- The two kinds of hypotheses of the commands over IN0..IN7: all lanes canonical (all F - 1), and
lane k the first that is not, for k = 0 and k = 7. -/
abbrev EightLaneHypotheses : Prop :=
  cfgOk romTC1 = true ∧
  (∀ k : Fin 8, ((loaded romTC1 (Lanes.const (u (F - 1)))).inReg.get k).toNat < F) ∧
  ∀ k : Fin 8,
    (∀ j : Fin 8, j.val < k.val → ((loaded romTC1 (firstBad k)).inReg.get j).toNat < F) ∧
    F ≤ ((loaded romTC1 (firstBad k)).inReg.get k).toNat

theorem witness_ExtlWritesTheExternalLayer : EightLaneHypotheses := by decide +kernel
theorem witness_IntlWritesTheInternalLayer : EightLaneHypotheses := by decide +kernel
theorem witness_PstartLoadsTheState : EightLaneHypotheses := by decide +kernel
theorem witness_PermuteWritesThePermutedState : EightLaneHypotheses := by decide +kernel
theorem witness_HashIsLaneZeroOfThePermutedInputs :
    cfgOk romTC1 = true ∧
    (∀ k : Fin 8, k.val < 7 → ((loaded romTC1 (firstBad 7)).inReg.get k).toNat < F) ∧
    ∀ k : Fin 8, k.val < 7 →
      (∀ j : Fin 8, j.val < k.val → ((loaded romTC1 (firstBad k)).inReg.get j).toNat < F) ∧
      F ≤ ((loaded romTC1 (firstBad k)).inReg.get k).toNat := by decide +kernel
/-- Every phase, with its first and its last round. -/
theorem witness_PstepMakesOneTransition :
    cfgOk romTC1 = true ∧ (atRound .idle 0).phase = .idle ∧ (atRound .done 56).phase = .done ∧
    (atRound .init 0).phase = .init ∧
    (∀ r ∈ [(0 : Fin 56), 3], (atRound .full1 r.val).ridx.toNat = r.val ∧
      (atRound .full1 r.val).phase = .full1) ∧
    (∀ r ∈ [(52 : Fin 56), 55], (atRound .full2 r.val).ridx.toNat = r.val ∧
      (atRound .full2 r.val).phase = .full2) ∧
    (∀ r ∈ [(4 : Fin 56), 51], (atRound .part r.val).ridx.toNat = r.val ∧
      (atRound .part r.val).phase = .part) := by decide +kernel
theorem witness_PstepFollowsTheTable :
    cfgOk romTC1 = true ∧
    ∀ s ∈ [atRound .idle 0, atRound .init 0, atRound .full1 0, atRound .full1 3, atRound .part 4,
        atRound .part 51, atRound .full2 52, atRound .full2 55, atRound .done 56],
      SchedOk s := by decide +kernel
/-- Two ROMs that differ in the padding entry RC[4][1] alone. -/
theorem witness_PartialRoundFormula :
    romTC1.d = romTCP.d ∧ (romTC1.rc[(4 : Fin 56)]).l0 = (romTCP.rc[(4 : Fin 56)]).l0 ∧
    romTC1 ≠ romTCP := by decide +kernel
theorem witness_SteppingEqualsPermute :
    cfgOk (loaded romTC1 (Lanes.const (u (F - 1)))).rom = true ∧
    ∀ k : Fin 8, ((loaded romTC1 (Lanes.const (u (F - 1)))).inReg.get k).toNat < F := by
  decide +kernel
/-- Every command, with a ROM and another that differs from it in a padding entry. -/
theorem witness_PaddingAffectsNoCommand :
    MeaningfulAgree romTC1 romTCP ∧ romTC1 ≠ romTCP ∧ SchedOk (atRound .part 4) ∧
    (∀ i : Instr, ∃ t, exec i (atRound .part 4) = .next t) := by
  refine ⟨⟨by decide +kernel, by decide +kernel⟩, by decide +kernel, by decide, ?_⟩
  intro i
  cases i <;> exact ⟨_, rfl⟩
/-- Two states that differ in IN7, ST and FRES. -/
theorem witness_HashDependsOnlyOnItsInputs :
    ∃ s1 s2 t1 t2 : State, s1.rom = s2.rom ∧
      (∀ k : Fin 8, k.val < 7 → s1.inReg.get k = s2.inReg.get k) ∧
      s1.inReg.get 7 ≠ s2.inReg.get 7 ∧ s1.fres ≠ s2.fres ∧
      exec .hash s1 = .next t1 ∧ exec .hash s2 = .next t2 :=
  ⟨loaded romTC1 testD, { loaded romTC1 (testD.set 7 (u F)) with fres := 1 }, _, _,
    rfl, by decide +kernel, by decide +kernel, by decide +kernel, rfl, rfl⟩
/-- The inputs are 0, ..., 5 and F - 1. -/
theorem witness_OneHashThroughThePort :
    ∃ s : State, cfgOk s.rom = true ∧ s.busy = false ∧ (0 : U256).toNat < F ∧
      (1 : U256).toNat < F ∧ (2 : U256).toNat < F ∧ (3 : U256).toNat < F ∧ (4 : U256).toNat < F ∧
      (5 : U256).toNat < F ∧ (u (F - 1)).toNat < F ∧
      s.inputs = [.write 0x000 0, .write 0x001 1, .write 0x002 2, .write 0x003 3,
        .write 0x004 4, .write 0x005 5, .write 0x006 (u (F - 1)), .write 0x011 0x09, .unitTurn,
        .read 0x012, .read 0x010] :=
  ⟨withInputs (State.resetWith romTC1) [.write 0x000 0, .write 0x001 1, .write 0x002 2,
      .write 0x003 3, .write 0x004 4, .write 0x005 5, .write 0x006 (u (F - 1)), .write 0x011 0x09,
      .unitTurn, .read 0x012, .read 0x010], by decide +kernel⟩
theorem witness_CfgOkMeansMeaningfulEntriesCanonical :
    (3 < 4 ∨ 52 ≤ 3 ∨ (7 : Fin 8) = 0) ∧ (4 < 4 ∨ 52 ≤ 4 ∨ (0 : Fin 8) = 0) ∧
    (52 < 4 ∨ 52 ≤ 52 ∨ (7 : Fin 8) = 0) ∧ cfgOk romTC1 = true ∧ cfgOk romTCM = false := by
  decide +kernel
/-- A legal word, an illegal one, and PSTEP in the middle of the rounds. -/
theorem witness_BadConfigurationFailsEveryCommand :
    cfgOk romTCB = false ∧
    ∀ s ∈ [busyWith romTCB 1 testD, busyWith romTCB 0 testD,
        accept 7 { atRound .full1 3 with rom := romTCB }],
      SchedOk s ∧ UnitMoves s [] ∧ s.busy = true ∧ cfgOk s.rom = false := by decide +kernel
/-- Every command with checked operands, at the lowest and the highest lane it checks. -/
theorem witness_InvalidInputReportsTheLowestLane :
    ∀ p ∈ [(Instr.fadd, (0 : Fin 8)), (.fadd, 1), (.fmul, 0), (.fmul, 1), (.sbox, 0), (.extl, 0),
        (.extl, 7), (.intl, 0), (.intl, 7), (.pstart, 0), (.pstart, 7), (.permute, 0),
        (.permute, 7), (.hash, 0), (.hash, 6)],
      p.2.val < checkedLanes p.1 ∧ cfgOk (loaded romTC1 (firstBad p.2)).rom = true ∧
      (∀ j : Fin 8, j.val < p.2.val → ((loaded romTC1 (firstBad p.2)).inReg.get j).toNat < F) ∧
      F ≤ ((loaded romTC1 (firstBad p.2)).inReg.get p.2).toNat := by decide +kernel

/-- A busy unit whose step fails with the given code. -/
abbrev FailsWith (s : State) (e : ECode) : Prop :=
  UnitMoves s [] ∧ s.busy = true ∧ ∃ t, step s = .next t ∧ t.err = true ∧ t.ecode = e

/-- Each of the four errors. -/
theorem witness_FailedCommandHasNoOtherEffect :
    FailsWith (busyWith romTC1 9 (firstBad 6)) .invalidInput ∧
    FailsWith (busyWith romTCB 9 testD) .configurationError ∧
    FailsWith (busyWith romTC1 0x0A testD) .illegalCommand ∧
    FailsWith (busyWith romTC1 7 testD) .sequenceError := by
  refine ⟨?_, ?_, ?_, ?_⟩ <;>
    exact ⟨.inl ⟨rfl, rfl⟩, rfl, next_of_onNext (by decide +kernel)⟩
/-- Each branch, where a later one would hold too if it came first. -/
theorem witness_ErrorsAreReportedInOrder :
    FailsWith (busyWith romTCB 0 (firstBad 0)) .configurationError ∧
    FailsWith (busyWith romTC1 0 (firstBad 0)) .illegalCommand ∧
    FailsWith (busyWith romTC1 0x0A (firstBad 0)) .illegalCommand ∧
    FailsWith (busyWith romTC1 7 (firstBad 0)) .sequenceError ∧
    FailsWith (busyWith romTC1 9 (firstBad 0)) .invalidInput := by
  refine ⟨?_, ?_, ?_, ?_, ?_⟩ <;>
    exact ⟨.inl ⟨rfl, rfl⟩, rfl, next_of_onNext (by decide +kernel)⟩
/-- A success and a failure. -/
theorem witness_CompletionReportsExactlyOneOutcome :
    (UnitMoves (busyWith romTC1 1 testD) [] ∧ (busyWith romTC1 1 testD).busy = true ∧
      ∃ t, step (busyWith romTC1 1 testD) = .next t ∧ t.done = true) ∧
    FailsWith (busyWith romTC1 7 testD) .sequenceError :=
  ⟨⟨.inl ⟨rfl, rfl⟩, rfl, next_of_onNext (by decide +kernel)⟩,
    .inl ⟨rfl, rfl⟩, rfl, next_of_onNext (by decide +kernel)⟩
/-- HERR is set by a write to ST0 and by one while busy; acceptance and reset clear it. -/
theorem witness_HostErrorFlagIsSticky :
    ((loaded romTC1 testD).herr = false ∧
      ∃ t, step (withInputs (loaded romTC1 testD) [.write 0x008 5]) = .next t ∧ t.herr = true) ∧
    ((busyWith romTC1 1 testD).herr = false ∧
      ∃ t, step (withInputs (busyWith romTC1 1 testD) [.write 0x011 5]) = .next t ∧
        t.herr = true) ∧
    ((hostError (loaded romTC1 testD)).herr = true ∧
      ∃ t, step (withInputs (hostError (loaded romTC1 testD)) [.write 0x011 5]) = .next t ∧
        t.herr = false) ∧
    ((hostError (busyWith romTC1 1 testD)).herr = true ∧
      ∃ t, step (withInputs (hostError (busyWith romTC1 1 testD)) [.reset]) = .next t ∧
        t.herr = false) := by
  refine ⟨⟨rfl, ?_⟩, ⟨rfl, ?_⟩, ⟨rfl, ?_⟩, ⟨rfl, ?_⟩⟩ <;> exact next_of_onNext (by decide +kernel)
theorem witness_CommandsCompleteOnCanonicalOperands :
    ∀ i ∈ [Instr.fadd, .fmul, .sbox, .extl, .intl, .pstart, .permute, .hash],
      i ≠ .pstep ∧ cfgOk (loaded romTC1 (Lanes.const (u (F - 1)))).rom = true ∧
      ∀ k : Fin 8, k.val < checkedLanes i →
        ((loaded romTC1 (Lanes.const (u (F - 1)))).inReg.get k).toNat < F := by decide +kernel
theorem witness_CommandsWriteOnlyTheirRegisters :
    ∀ i : Instr, ∃ t, exec i (loaded romTC1 testD) = .next t := by
  intro i
  cases i <;> exact ⟨_, rfl⟩
/-- After reset, busy, and in the middle of a stepped permutation; the steps are the unit's and the
host's. -/
theorem witness_StepKeepsTheStateWellFormed :
    (StateOk (busyWith romTC1 9 testD) ∧ ∃ t, step (busyWith romTC1 9 testD) = .next t ∧
      t.phase = .done) ∧
    (StateOk (accept 7 (atRound .part 51)) ∧ ∃ t, step (accept 7 (atRound .part 51)) = .next t ∧
      t.phase = .full2) ∧
    (StateOk (withInputs (loaded romTC1 testD) [.write 0x011 7]) ∧
      ∃ t, step (withInputs (loaded romTC1 testD) [.write 0x011 7]) = .next t ∧
        t.busy = true) := by
  refine ⟨⟨by decide +kernel, ?_⟩, ⟨by decide +kernel, ?_⟩, ⟨by decide +kernel, ?_⟩⟩ <;>
    exact next_of_onNext (by decide +kernel)
theorem witness_WellFormedStatesNeverStop :
    StateOk (accept 7 (atRound .full2 55)) ∧ StateOk (accept 7 (atRound .done 56)) ∧
    StateOk (busyWith romTC1 (u (2 ^ 256 - 1)) testD) := by decide +kernel
theorem witness_DoneIsReportedOnlyForCommands :
    ((loaded romTC1 testD).done = true → ∃ i, decode (loaded romTC1 testD).cmd = .ok i) ∧
    ((busyWith romTC1 9 testD).done = true → ∃ i, decode (busyWith romTC1 9 testD).cmd = .ok i) ∧
    ∃ t, step (busyWith romTC1 9 testD) = .next t ∧ t.done = true :=
  ⟨fun h => Bool.noConfusion h, fun h => Bool.noConfusion h, next_of_onNext (by decide +kernel)⟩
theorem witness_StepKeepsTheConfiguration :
    ∃ t, step (withInputs (busyWith romTC1 9 testD) [.reset]) = .next t ∧ t.busy = false :=
  next_of_onNext (by decide +kernel)
/-- A command accepted last of all, and one outstanding with nothing to come. -/
theorem witness_EveryRunCompletesItsCommands :
    StateOk (withInputs (loaded romTC1 testD) [.read 0x012, .write 0x011 9]) ∧
    StateOk (busyWith romTC1 9 testD) := by decide +kernel
theorem witness_OperandRaceLeavesTheResult :
    StateOk (busyWith romTC1 9 testD) ∧ (busyWith romTC1 9 testD).busy = true ∧
    (0x000 : Index).toNat < 8 ∧ (0x007 : Index).toNat < 8 := by decide +kernel
/-- A write, a read, and a statement without a transaction. -/
theorem witness_HostStatementsAreBusTransactions :
    (∃ h' t, hostTurn ⟨[.wr .cmd (.lit 9)], 0, []⟩ (loaded romTC1 testD) = .moved h' t ∧
      busTransaction ⟨[.wr .cmd (.lit 9)], 0, []⟩ = some (.write 0x011 9)) ∧
    (∃ h' t, hostTurn ⟨[.rd "x" .status], 0, []⟩ (loaded romTC1 testD) = .moved h' t ∧
      busTransaction ⟨[.rd "x" .status], 0, []⟩ = some (.read 0x012)) ∧
    (∃ h' t, hostTurn ⟨[.label "l"], 0, []⟩ (loaded romTC1 testD) = .moved h' t ∧
      busTransaction ⟨[.label "l"], 0, []⟩ = none) :=
  ⟨⟨_, _, rfl, by decide⟩, ⟨_, _, rfl, by decide⟩, ⟨_, _, rfl, by decide⟩⟩

end Sys2Proof.Tests
end

namespace Sys2Proof.Machine

/-! ## What a command that succeeds leaves unchanged (R85) -/

/-- A command writes ST, FRES and SCHED at most, whichever command it is. -/
theorem Wrote.eq_frame {i : Instr} {s u : State} (hw : Wrote i s u) :
    u = { s with st := u.st, fres := u.fres, phase := u.phase, ridx := u.ridx } := by
  cases i with
  | pstep =>
    obtain ⟨-, hw⟩ | ⟨-, r, -, hw⟩ := hw
    · rw [hw]
    · rw [hw]; rfl
  | fadd | fmul | sbox | extl | intl | pstart | permute | hash =>
    simp only [Wrote] at hw
    rw [hw]

theorem Wrote.cmd {i : Instr} {s u : State} (hw : Wrote i s u) : u.cmd = s.cmd := by
  rw [hw.eq_frame]

theorem Wrote.herr {i : Instr} {s u : State} (hw : Wrote i s u) : u.herr = s.herr := by
  rw [hw.eq_frame]

/-- A unit step changes neither CMD nor HERR. -/
theorem unitStep_cmd_herr {s t : State} (h : unitStep s = .next t) :
    t.cmd = s.cmd ∧ t.herr = s.herr := by
  obtain ⟨-, rfl⟩ | ⟨-, -, i, u, -, rfl, hw⟩ | ⟨-, e, rfl⟩ := unitStep_cases h
  · exact ⟨rfl, rfl⟩
  · exact ⟨hw.cmd, hw.herr⟩
  · exact ⟨rfl, rfl⟩

/-- After the unit's turn no command is outstanding. -/
theorem unitStep_busy {s t : State} (h : unitStep s = .next t) : t.busy = false := by
  obtain ⟨hb, rfl⟩ | ⟨-, -, i, u, -, rfl, -⟩ | ⟨-, e, rfl⟩ := unitStep_cases h
  · exact hb
  · rfl
  · rfl

/-! ## The scheduler positions of R31 -/

theorem SchedOk.ridx_of_init {s : State} (h : SchedOk s) (hp : s.phase = .init) : s.ridx = 0 := by
  obtain ⟨-, -, -, -, -, not_init⟩ := phaseOf_spec s.ridx.toNat
  obtain ⟨hp', -⟩ | ⟨-, hr⟩ | ⟨-, hp'⟩ := h
  · cases hp.symm.trans hp'
  · exact hr
  · exact absurd (hp'.symm.trans hp) not_init

/-- Outside IDLE and INIT the phase is the one RIDX stands in. -/
theorem SchedOk.phaseOf_ridx {s : State} (h : SchedOk s) (hi : s.phase ≠ .idle)
    (hn : s.phase ≠ .init) : phaseOf s.ridx.toNat = s.phase := by
  obtain ⟨hp, -⟩ | ⟨hp, -⟩ | ⟨-, hp⟩ := h
  · exact absurd hp hi
  · exact absurd hp hn
  · exact hp.symm

/-- In a phase of full rounds, RIDX names a full round. -/
theorem SchedOk.ridx_of_full {s : State} (h : SchedOk s)
    (hp : s.phase = .full1 ∨ s.phase = .full2) : s.ridx.toNat < 4 ∨ 52 ≤ s.ridx.toNat := by
  obtain ⟨full1, -, full2, -⟩ := phaseOf_spec s.ridx.toNat
  obtain hp | hp := hp
  · exact .inl (full1.mp ((h.phaseOf_ridx (by simp [hp]) (by simp [hp])).trans hp))
  · exact .inr (full2.mp ((h.phaseOf_ridx (by simp [hp]) (by simp [hp])).trans hp)).1

/-- A round that ends leaves the scheduler at the next one. -/
theorem schedOk_advance (s : State) (r : Fin 56) (x : Lanes Fe) : SchedOk (advance s r x) := by
  have hr : (BitVec.ofNat 8 (r.val + 1)).toNat = r.val + 1 := by
    rw [BitVec.toNat_ofNat]
    omega
  refine .inr (.inr ?_)
  rw [advance_ridx, advance_phase, hr]
  exact ⟨r.isLt, rfl⟩

theorem Wrote.schedOk {i : Instr} {s u : State} (hw : Wrote i s u) (h : SchedOk s) :
    SchedOk u := by
  cases i with
  | fadd | fmul | sbox =>
    simp only [Wrote] at hw
    rw [hw]
    exact h
  | extl | intl =>
    simp only [Wrote] at hw
    rw [hw]
    exact .inl ⟨rfl, rfl⟩
  | pstart =>
    simp only [Wrote] at hw
    rw [hw]
    exact .inr (.inl ⟨rfl, rfl⟩)
  | permute | hash =>
    simp only [Wrote] at hw
    rw [hw]
    exact .inr (.inr ⟨le_refl 56, rfl⟩)
  | pstep =>
    obtain ⟨hp, hw⟩ | ⟨-, r, -, hw⟩ := hw
    · have hr : s.ridx = 0 := h.ridx_of_init hp
      rw [hw]
      refine .inr (.inr ?_)
      simp only [hr]
      exact ⟨by decide, rfl⟩
    · rw [hw]
      exact schedOk_advance s r u.st

/-! ## STATUS after each shared operation (R26 to R28) -/

theorem errorCode_ne_none (e : CmdError) : errorCode e ≠ .none := by cases e <;> exact nofun

/-- Only InvalidInput names a lane. -/
theorem errorLane_eq_zero {e : CmdError} (h : errorCode e ≠ .invalidInput) : errorLane e = 0 := by
  cases e with
  | invalidInput k => exact absurd rfl h
  | configurationError | illegalCommand | sequenceError => rfl

theorem errorLane_lt (e : CmdError) : (errorLane e).toNat < 8 := by
  cases e with
  | invalidInput k => rw [errorLane, BitVec.toNat_ofNat]; omega
  | configurationError | illegalCommand | sequenceError => decide

theorem statusOk_succeed (s : State) : StatusOk (succeed s) := by simp [StatusOk]

theorem statusOk_accept (v : U256) (s : State) : StatusOk (accept v s) := by simp [StatusOk]

theorem statusOk_raise (e : CmdError) (s : State) : StatusOk (raise e s) :=
  ⟨fun hb => Bool.noConfusion hb, fun hd => Bool.noConfusion hd.1,
    ⟨fun _ => errorCode_ne_none e, fun _ => rfl⟩, errorLane_eq_zero, errorLane_lt e⟩

theorem stateOk_resetWith (rom : Rom) : StateOk (State.resetWith rom) :=
  ⟨.inl ⟨rfl, rfl⟩, by simp [StatusOk]⟩

/-! ## Every step keeps the state well formed -/

theorem unitStep_stateOk {s t : State} (h : StateOk s) (ht : unitStep s = .next t) :
    StateOk t := by
  obtain ⟨-, rfl⟩ | ⟨-, -, i, u, -, rfl, hw⟩ | ⟨-, e, rfl⟩ := unitStep_cases ht
  · exact h
  · exact ⟨hw.schedOk h.1, statusOk_succeed u⟩
  · exact ⟨h.1, statusOk_raise e s⟩

theorem memWrite_stateOk {s : State} (idx : Index) (v : U256) (h : StateOk s) :
    StateOk (memWrite idx v s) := by
  obtain ⟨_, -, hx⟩ | ⟨-, -, hx⟩ | ⟨-, hx⟩ := memWrite_cases idx v s
  · rw [hx]; exact h
  · rw [hx]; exact ⟨h.1, statusOk_accept v s⟩
  · rw [hx]; exact h

/-- Settles O52, by the invariant of each kind of step: the unit's turn, a host write, a host read
(which changes no register) and reset. -/
theorem stepKeepsTheStateWellFormed : Obligations.StepKeepsTheStateWellFormed := by
  intro s t h ht
  obtain ⟨-, hu⟩ | ⟨i, rest, -, hi⟩ := step_cases ht
  · exact unitStep_stateOk h hu
  · have hs : StateOk { s with inputs := rest } := h
    cases i with
    | unitTurn => exact unitStep_stateOk hs hi
    | read idx => subst hi; exact h
    | write idx v => subst hi; exact memWrite_stateOk idx v hs
    | reset => subst hi; exact stateOk_resetWith s.rom

/-- Settles O18: reset puts the scheduler at (IDLE, 0) and clears STATUS. -/
theorem resetStateIsWellFormed : Obligations.ResetStateIsWellFormed :=
  ⟨stateOk_resetWith, stateOk_resetWith Config.unitRom⟩

/-! ## Acceptance, completion and reset -/

/-- R27: a write to CMD between commands is an acceptance. -/
theorem memWrite_cmd_idle {s : State} (v : U256) (hb : s.busy = false) :
    memWrite 0x011 v s = accept v s := by
  obtain ⟨hlt, -⟩ | ⟨-, -, hx⟩ | ⟨hbusy, -⟩ := memWrite_cases 0x011 v s
  · exact absurd hlt (by decide)
  · exact hx
  · exact Bool.noConfusion (hb.symm.trans (hbusy (.inr rfl)))

/-- Settles O8: acceptance is the host write to CMD, and the unit's turn ends with BUSY = 0. -/
theorem commandIsAcceptedAndCompleted : Obligations.CommandIsAcceptedAndCompleted := by
  constructor
  · intro s v rest he hb
    rw [step_of_write he, memWrite_cmd_idle (s := { s with inputs := rest }) v hb]
    rfl
  · intro s t rest hm ht
    rw [step_of_unitMoves hm] at ht
    exact unitStep_busy ht

/-- Settles O48, by what the unit's turn can do: it succeeds or raises. -/
theorem completionReportsExactlyOneOutcome : Obligations.CompletionReportsExactlyOneOutcome := by
  intro s t rest hm hb ht
  rw [step_of_unitMoves hm] at ht
  refine ⟨unitStep_busy ht, ?_⟩
  obtain ⟨hidle, -⟩ | ⟨-, -, i, u, -, rfl, -⟩ | ⟨-, e, rfl⟩ := unitStep_cases ht
  · exact Bool.noConfusion (hb.symm.trans hidle)
  · exact .inl ⟨rfl, rfl, rfl, rfl⟩
  · exact .inr ⟨rfl, rfl, errorCode_ne_none e⟩

/-- Settles O17: every register reads as `State.resetWith` sets it. -/
theorem resetInputSetsEveryRegister : Obligations.ResetInputSetsEveryRegister := by
  intro s rest he
  refine ⟨_, step_of_reset he, fun k => ?_, rfl, rfl, rfl, rfl, rfl, rfl, rfl, rfl, rfl, rfl, rfl⟩
  rw [resetInput_inReg, resetInput_st, Lanes.get_const, Lanes.get_const]
  exact ⟨rfl, rfl⟩

/-! ## HERR and DONE along a step -/

/-- A host write raises HERR only where it is not performed. -/
theorem memWrite_sets_herr {s : State} {idx : Index} {v : U256} (h0 : s.herr = false)
    (h1 : (memWrite idx v s).herr = true) :
    s.busy = true ∨ (8 ≤ idx.toNat ∧ idx.toNat ≠ 0x011) := by
  obtain ⟨_, -, hx⟩ | ⟨-, -, hx⟩ | ⟨hbusy, -⟩ := memWrite_cases idx v s
  · rw [hx] at h1; exact Bool.noConfusion (h0.symm.trans h1)
  · rw [hx] at h1; cases h1
  · by_cases hb : s.busy = true
    · exact .inl hb
    · have hn : ¬(idx.toNat < 8 ∨ idx = 0x011) := fun hi => hb (hbusy hi)
      refine .inr ⟨by omega, fun hi => hn (.inr ?_)⟩
      exact BitVec.eq_of_toNat_eq hi

/-- A host write clears HERR only where it is an acceptance. -/
theorem memWrite_clears_herr {s : State} {idx : Index} {v : U256} (h1 : s.herr = true)
    (h0 : (memWrite idx v s).herr = false) : idx = 0x011 ∧ s.busy = false := by
  obtain ⟨_, -, hx⟩ | ⟨hi, hb, -⟩ | ⟨-, hx⟩ := memWrite_cases idx v s
  · rw [hx] at h0; exact Bool.noConfusion (h1.symm.trans h0)
  · exact ⟨hi, hb⟩
  · rw [hx] at h0; cases h0

/-- Settles O49: of the steps, only a host write and reset change HERR. -/
theorem hostErrorFlagIsSticky : Obligations.HostErrorFlagIsSticky := by
  intro s t ht
  have kept {P Q : Prop} (hk : t.herr = s.herr) :
      (s.herr = false → t.herr = true → P) ∧ (s.herr = true → t.herr = false → Q) := by
    rw [hk]
    exact ⟨fun h0 h1 => Bool.noConfusion (h0.symm.trans h1),
      fun h1 h0 => Bool.noConfusion (h1.symm.trans h0)⟩
  obtain ⟨-, hu⟩ | ⟨i, rest, he, hi⟩ := step_cases ht
  · exact kept (unitStep_cmd_herr hu).2
  · cases i with
    | unitTurn => exact kept (unitStep_cmd_herr hi).2
    | read idx => subst hi; exact kept rfl
    | write idx v =>
      subst hi
      constructor
      · intro h0 h1
        exact ⟨idx, v, rest, he, memWrite_sets_herr (s := { s with inputs := rest }) h0 h1⟩
      · intro h1 h0
        obtain ⟨rfl, hb⟩ := memWrite_clears_herr (s := { s with inputs := rest }) h1 h0
        exact .inl ⟨v, rest, he, hb⟩
    | reset =>
      subst hi
      exact ⟨fun _ h1 => Bool.noConfusion h1, fun _ _ => .inr ⟨rest, he⟩⟩

/-- DONE = 1 only over a word in CMD that is a command. -/
def DoneOverCommand (s : State) : Prop := s.done = true → ∃ i, decode s.cmd = .ok i

theorem doneOverCommand_of_done {s : State} (h : s.done = false) : DoneOverCommand s :=
  fun h1 => Bool.noConfusion (h.symm.trans h1)

/-- The unit reports DONE only where the word in CMD decoded, and leaves that word. -/
theorem unitStep_doneOverCommand {s t : State} (h : DoneOverCommand s)
    (ht : unitStep s = .next t) : DoneOverCommand t := by
  obtain ⟨-, rfl⟩ | ⟨-, -, i, u, hi, rfl, hw⟩ | ⟨-, e, rfl⟩ := unitStep_cases ht
  · exact h
  · exact fun _ => ⟨i, by rw [succeed_cmd, hw.cmd, hi]⟩
  · exact doneOverCommand_of_done rfl

theorem memWrite_doneOverCommand {s : State} (idx : Index) (v : U256) (h : DoneOverCommand s) :
    DoneOverCommand (memWrite idx v s) := by
  obtain ⟨_, -, hx⟩ | ⟨-, -, hx⟩ | ⟨-, hx⟩ := memWrite_cases idx v s
  · rw [hx]; exact h
  · rw [hx]; exact doneOverCommand_of_done rfl
  · rw [hx]; exact h

/-- Settles O54: acceptance, which changes CMD, clears DONE, and only a command that decoded sets
it. -/
theorem doneIsReportedOnlyForCommands : Obligations.DoneIsReportedOnlyForCommands := by
  intro s t h ht
  change DoneOverCommand t
  obtain ⟨-, hu⟩ | ⟨i, rest, -, hi⟩ := step_cases ht
  · exact unitStep_doneOverCommand h hu
  · have hs : DoneOverCommand { s with inputs := rest } := h
    cases i with
    | unitTurn => exact unitStep_doneOverCommand hs hi
    | read idx => subst hi; exact h
    | write idx v => subst hi; exact memWrite_doneOverCommand idx v hs
    | reset => subst hi; exact doneOverCommand_of_done rfl

/-! ## Fields of the words the host reads (R26, R30) -/

theorem regAt_status : regAt 0x012 = some .status := by decide

theorem regAt_sched : regAt 0x013 = some .sched := by decide

theorem regAt_fres : regAt 0x010 = some .fres := by decide

theorem memRead_status (draw : U256) (s : State) : memRead draw 0x012 s = statusWord s := by
  rw [memRead, regAt_status]
  rfl

theorem memRead_sched_idle (draw : U256) {s : State} (hb : s.busy = false) :
    memRead draw 0x013 s = schedWord s := by
  rw [memRead, regAt_sched]
  simp [readReg, hb]

/-- A bit of a word, as a number. -/
theorem getLsbD_eq_of_toNat {w : U256} {i : Nat} {b : Bool} (h : w.toNat / 2 ^ i % 2 = b.toNat) :
    w.getLsbD i = b := by
  rw [BitVec.getLsbD, Nat.testBit_eq_decide_div_mod_eq, h]
  cases b <;> rfl

/-- A field of a word, as a number. -/
theorem extractLsb'_toNat_div (w : U256) (lo len : Nat) :
    (w.extractLsb' lo len).toNat = w.toNat / 2 ^ lo % 2 ^ len := by
  rw [BitVec.extractLsb'_toNat, Nat.shiftRight_eq_div_pow]

theorem extractLsb'_eq_of_toNat {w : U256} {lo len : Nat} {v : BitVec len}
    (h : w.toNat / 2 ^ lo % 2 ^ len = v.toNat) : w.extractLsb' lo len = v :=
  BitVec.eq_of_toNat_eq ((extractLsb'_toNat_div w lo len).trans h)

theorem extractLsb'_eq_zero {w : U256} {lo len : Nat} (h : w.toNat / 2 ^ lo % 2 ^ len = 0) :
    w.extractLsb' lo len = 0 :=
  extractLsb'_eq_of_toNat (h.trans BitVec.toNat_zero.symm)

/-- Settles O12: STATUS is the sum of its fields, none cut off, and each is read back by division. -/
theorem statusWordFields : Obligations.StatusWordFields := by
  intro draw s
  have hw := statusWord_toNat s
  have := s.elane.isLt
  have := ecodeNum_lt s.ecode
  have := Bool.toNat_le (cfgOk s.rom)
  have := Bool.toNat_le s.herr
  have := Bool.toNat_le s.err
  have := Bool.toNat_le s.done
  have := Bool.toNat_le s.busy
  rw [memRead_status]
  refine ⟨getLsbD_eq_of_toNat ?_, getLsbD_eq_of_toNat ?_, getLsbD_eq_of_toNat ?_,
    getLsbD_eq_of_toNat ?_, getLsbD_eq_of_toNat ?_, extractLsb'_eq_zero ?_,
    (extractLsb'_toNat_div _ 8 4).trans ?_, extractLsb'_eq_of_toNat ?_, extractLsb'_eq_zero ?_⟩ <;>
    omega

/-- Settles O13: SCHED is RIDX above PHASE, neither cut off. -/
theorem schedWordFields : Obligations.SchedWordFields := by
  intro draw s hb
  have hw := schedWord_toNat s
  have := s.ridx.isLt
  have := phaseNum_lt s.phase
  rw [memRead_sched_idle draw hb]
  refine ⟨(extractLsb'_toNat_div _ 0 3).trans ?_, extractLsb'_eq_zero ?_,
    extractLsb'_eq_of_toNat ?_, extractLsb'_eq_zero ?_⟩ <;>
    omega

theorem regAt_st {idx : Index} (hlo : 8 ≤ idx.toNat) (hhi : idx.toNat - 8 < 8) :
    regAt idx = some (.st ⟨idx.toNat - 8, hhi⟩) := by
  simp [regAt, Nat.not_lt.mpr hlo, hhi]

/-- Between commands, what is read from ST or FRES is a field element in a register. -/
theorem memRead_result_idle (draw : U256) {s : State} {idx : Index} (hb : s.busy = false)
    (hlo : 8 ≤ idx.toNat) (hhi : idx.toNat ≤ 0x010) : ∃ x : Fe, memRead draw idx s = feWord x := by
  by_cases h : idx.toNat - 8 < 8
  · exact ⟨s.st.get ⟨_, h⟩, by rw [memRead, regAt_st hlo h]; simp [readReg, hb]⟩
  · have hi : idx = 0x010 := BitVec.eq_of_toNat_eq (by simp; omega)
    subst hi
    exact ⟨s.fres, by rw [memRead, regAt_fres]; simp [readReg, hb]⟩

/-- Settles O16: such a read is a field element zero-extended, and the register holds it whole. -/
theorem resultReadsAreCanonical : Obligations.ResultReadsAreCanonical := by
  intro draw s idx hb hlo hhi
  obtain ⟨x, hx⟩ := memRead_result_idle draw hb hlo hhi
  rw [hx, feWord_toNat]
  exact x.isLt

/-! ## The configuration: its check, and its padding (R33, R35) -/

theorem isFull_iff (r : Fin 56) : isFull r = true ↔ r.val < 4 ∨ 52 ≤ r.val := by simp [isFull]

/-- Settles O43, row by row: all lanes of a full round's row are checked, lane 0 of the others. -/
theorem cfgOkMeansMeaningfulEntriesCanonical :
    Obligations.CfgOkMeansMeaningfulEntriesCanonical := by
  intro rom
  simp only [cfgOk, Bool.and_eq_true, List.all_eq_true, List.mem_finRange, true_implies,
    Lanes.all_iff, decide_eq_true_eq]
  refine and_congr_left fun _ => forall_congr' fun r => ?_
  by_cases hf : isFull r = true
  · have hr := (isFull_iff r).mp hf
    simp only [hf, if_true, Lanes.all_iff, decide_eq_true_eq]
    exact ⟨fun h i _ => h i, fun h i => h i (by omega)⟩
  · have hr := mt (isFull_iff r).mpr hf
    rw [if_neg hf, decide_eq_true_eq]
    exact ⟨fun h i hi => (show i = 0 by omega) ▸ h, fun h => h 0 (.inr (.inr rfl))⟩

theorem MeaningfulAgree.cfgOk_eq {rom rom' : Rom} (h : MeaningfulAgree rom rom') :
    cfgOk rom' = cfgOk rom := by
  obtain ⟨hd, hrc⟩ := h
  rw [Bool.eq_iff_iff, cfgOkMeansMeaningfulEntriesCanonical rom,
    cfgOkMeansMeaningfulEntriesCanonical rom', hd]
  refine and_congr_left fun _ => forall_congr' fun r => forall_congr' fun i => ?_
  exact forall_congr' fun hm => by rw [hrc r i hm]

theorem MeaningfulAgree.fullRound_eq {rom rom' : Rom} (h : MeaningfulAgree rom rom')
    {r : Fin 56} (hr : r.val < 4 ∨ 52 ≤ r.val) (x : Lanes Fe) :
    fullRound rom' x r = fullRound rom x r := by
  have hrow : rom.rc[r] = rom'.rc[r] := Lanes.ext_get fun i => h.2 r i (by omega)
  rw [fullRound, fullRound, hrow]

theorem MeaningfulAgree.partialRound_eq {rom rom' : Rom} (h : MeaningfulAgree rom rom')
    (r : Fin 56) (x : Lanes Fe) : partialRound rom' x r = partialRound rom x r := by
  have h0 : rom.rc[r].l0 = rom'.rc[r].l0 := h.2 r 0 (.inr (.inr rfl))
  rw [partialRound, partialRound, h.1, h0]

theorem MeaningfulAgree.permute_eq {rom rom' : Rom} (h : MeaningfulAgree rom rom') :
    permute rom' = permute rom := by
  have full {lo hi : Nat} (hb : hi ≤ 4 ∨ 52 ≤ lo) (x : Lanes Fe) :
      (roundsFrom lo hi).foldl (fullRound rom') x = (roundsFrom lo hi).foldl (fullRound rom) x := by
    refine List.foldl_ext _ _ _ fun y r hr => h.fullRound_eq ?_ y
    have := mem_roundsFrom.mp hr
    omega
  have part (x : Lanes Fe) :
      (roundsFrom 4 52).foldl (partialRound rom') x
        = (roundsFrom 4 52).foldl (partialRound rom) x :=
    List.foldl_ext _ _ _ fun y r _ => h.partialRound_eq r y
  funext x
  simp only [permute, full (lo := 0) (.inl (le_refl 4)), part, full (hi := 56) (.inr (le_refl 52))]

/-- The same state under another configuration. -/
def withRom (rom : Rom) (s : State) : State := { s with rom := rom }

@[simp] theorem withRom_rom (rom : Rom) (s : State) : (withRom rom s).rom = rom := rfl

theorem succeed_withRom (rom : Rom) (s : State) :
    succeed (withRom rom s) = withRom rom (succeed s) := rfl

theorem raise_withRom (e : CmdError) (rom : Rom) (s : State) :
    raise e (withRom rom s) = withRom rom (raise e s) := rfl

/-- A completion whose check and write do not see the difference between two ROMs does the same
with either. -/
theorem complete_withRom {α : Type} {s : State} {rom' : Rom} {ops : Except CmdError α}
    {write write' : α → State} (hc : cfgOk rom' = cfgOk s.rom)
    (hw : ∀ a, ops = .ok a → write' a = withRom rom' (write a)) :
    complete (withRom rom' s) ops write' = withRom rom' (complete s ops write) := by
  have hc' : cfgOk (withRom rom' s).rom = cfgOk s.rom := hc
  obtain ⟨hs, a, rfl, hx⟩ | ⟨hs, e, rfl, hx⟩ | ⟨hs, hx⟩ := complete_cases s ops write
  · rw [hx, complete_ok (hc'.trans hs), hw a rfl, succeed_withRom]
  · rw [hx, complete_error (hc'.trans hs), raise_withRom]
  · rw [hx, complete_badConfig (hc'.trans hs), raise_withRom]

theorem stepRound_withRom {s t : State} {rom' : Rom}
    {round : Rom → Lanes Fe → Fin 56 → Lanes Fe} (hc : cfgOk rom' = cfgOk s.rom)
    (hround : ∀ r : Fin 56, r.val = s.ridx.toNat → round rom' s.st r = round s.rom s.st r)
    (h : stepRound s round = .next t) :
    stepRound (withRom rom' s) round = .next (withRom rom' t) := by
  unfold stepRound at h
  split at h
  · rename_i hr
    injection h with h
    subst h
    refine (dif_pos hr).trans (congrArg Host.Outcome.next (complete_withRom hc ?_))
    intro a ha
    injection ha with ha
    subst ha
    change advance (withRom rom' s) _ (round rom' s.st _) = _
    rw [hround _ rfl]
    rfl
  · cases h

theorem execPstep_withRom {s t : State} {rom' : Rom} (hs : SchedOk s)
    (ha : MeaningfulAgree s.rom rom') (h : execPstep s = .next t) :
    execPstep (withRom rom' s) = .next (withRom rom' t) := by
  have hc := ha.cfgOk_eq
  have hp' : (withRom rom' s).phase = s.phase := rfl
  unfold execPstep at h ⊢
  rw [hp']
  cases hp : s.phase with
  | idle | done | init =>
    simp only [hp] at h ⊢
    injection h with h
    subst h
    exact congrArg Host.Outcome.next (complete_withRom hc fun _ _ => rfl)
  | full1 =>
    simp only [hp] at h ⊢
    exact stepRound_withRom hc
      (fun r hr => ha.fullRound_eq (hr ▸ hs.ridx_of_full (.inl hp)) s.st) h
  | part =>
    simp only [hp] at h ⊢
    exact stepRound_withRom hc (fun r _ => ha.partialRound_eq r s.st) h
  | full2 =>
    simp only [hp] at h ⊢
    exact stepRound_withRom hc
      (fun r hr => ha.fullRound_eq (hr ▸ hs.ridx_of_full (.inr hp)) s.st) h

/-- Settles O38: the check of the configuration, the permutation, the internal layer and each round
that a scheduler position of R31 admits read only meaningful entries. -/
theorem paddingAffectsNoCommand : Obligations.PaddingAffectsNoCommand := by
  intro i s t rom' hs ha h
  change exec i (withRom rom' s) = .next (withRom rom' t)
  have hc := ha.cfgOk_eq
  cases i with
  | pstep => exact execPstep_withRom hs ha h
  | fadd | fmul | sbox | extl | pstart =>
    injection h with h
    subst h
    exact congrArg Host.Outcome.next (complete_withRom hc fun _ _ => rfl)
  | intl =>
    injection h with h
    subst h
    refine congrArg Host.Outcome.next (complete_withRom hc fun x _ => ?_)
    rw [withRom_rom, ← ha.1]
    rfl
  | permute | hash =>
    injection h with h
    subst h
    refine congrArg Host.Outcome.next (complete_withRom hc fun x _ => ?_)
    rw [withRom_rom, ha.permute_eq]
    rfl

end Sys2Proof.Machine

namespace Sys2Proof.Machine

/-! ## The command in CMD is what the unit runs (R61, R64, R82) -/

/-- While busy, the unit's turn is the meaning of the command that CMD decodes to. -/
theorem unitStep_of_decode {s : State} {i : Instr} (hb : s.busy = true)
    (hi : decode s.cmd = .ok i) : unitStep s = exec i s := by
  rw [unitStep, if_pos hb, completeCommand, hi]

/-- A word that is no command is completed without one. -/
theorem unitStep_of_illegal {s : State} {e : IllegalWord} (hb : s.busy = true)
    (he : decode s.cmd = .error e) : unitStep s = .next (completeIllegal s) := by
  rw [unitStep, if_pos hb, completeCommand, he]

theorem decode_encode (i : Instr) : decode (encode i) = .ok i := by cases i <;> decide

/-- Settles O5: the unit's turn takes itself off the inputs and completes the command in CMD. -/
theorem stepRunsTheAcceptedCommand : Obligations.StepRunsTheAcceptedCommand := by
  intro s rest i hm hb hi
  rw [step_of_unitMoves hm]
  exact unitStep_of_decode (s := { s with inputs := rest }) hb hi

/-- The word of a command is the 256-bit word of its number. -/
theorem ofNat_encode_mod (i : Instr) :
    BitVec.ofNat 256 ((encode i).toNat % 2 ^ 256) = encode i := by
  rw [Nat.mod_eq_of_lt (encode i).isLt, BitVec.ofNat_toNat, BitVec.setWidth_eq]

/-- Settles O7: `withFetchWord` leaves the unit to move, over a word that decodes to the command. -/
theorem fetchWordIsRunNext : Obligations.FetchWordIsRunNext := by
  intro i s
  rw [State.withFetchWord, ofNat_encode_mod]
  exact stepRunsTheAcceptedCommand _ s.inputs i (.inr rfl) rfl (decode_encode i)

/-! ## The register map (R51) -/

theorem regAt_regIndex_rc (r : Fin 56) (i : Fin 8) :
    regAt (regIndex (.rc r i)) = some (.rc r i) := by
  have h := regIndex_rc r i
  have hq : (0x100 + 8 * r.val + i.val - 0x100) / 8 = r.val := by omega
  have hm : (0x100 + 8 * r.val + i.val - 0x100) % 8 = i.val := by omega
  simp only [regAt, h, hq, hm]
  rw [dif_neg (by omega), dif_neg (by omega), if_neg (by omega), if_neg (by omega),
    if_neg (by omega), if_neg (by omega), if_neg (by omega), dif_pos (by omega)]

theorem regAt_regIndex (r : Reg) : regAt (regIndex r) = some r := by
  cases r with
  | inp k | st k | d k => revert k; decide
  | fres | cmd | status | sched | params => decide
  | rc r i => exact regAt_regIndex_rc r i

theorem regIndex_of_regAt {idx : Index} {r : Reg} (h : regAt idx = some r) : regIndex r = idx := by
  apply BitVec.eq_of_toNat_eq
  simp only [regAt] at h
  split_ifs at h <;> cases h
  · exact regIndex_inp _
  · simp only [regIndex_st]; omega
  iterate 5 · rename_i hn; exact hn.symm
  · simp only [regIndex_rc]; omega
  · simp only [regIndex_d]; omega

/-- Settles O14: the two directions of the map. -/
theorem registerMapIsOneToOne : Obligations.RegisterMapIsOneToOne :=
  ⟨regAt_regIndex, fun _ _ => regIndex_of_regAt⟩

/-! ## Host writes (R53, R54) -/

theorem memWrite_inp_idle {s : State} {idx : Index} (v : U256) (h : idx.toNat < 8)
    (hb : s.busy = false) :
    memWrite idx v s = { s with inReg := s.inReg.set ⟨idx.toNat, h⟩ v } := by
  rw [memWrite, regAt_inp h]
  simp [hb]

/-- A write that the unit does not perform: to IN or CMD while busy, or to any other index. -/
theorem memWrite_dropped {s : State} {idx : Index} (v : U256)
    (h : (idx.toNat < 8 ∨ idx = 0x011) → s.busy = true) : memWrite idx v s = hostError s := by
  obtain ⟨hlt, hb, -⟩ | ⟨hi, hb, -⟩ | ⟨-, hx⟩ := memWrite_cases idx v s
  · exact Bool.noConfusion (hb.symm.trans (h (.inl hlt)))
  · exact Bool.noConfusion (hb.symm.trans (h (.inr hi)))
  · exact hx

/-- The only write performed while a command is outstanding is the report in HERR. -/
theorem memWrite_busy {s : State} (idx : Index) (v : U256) (hb : s.busy = true) :
    memWrite idx v s = hostError s :=
  memWrite_dropped v fun _ => hb

theorem lanes_get_set_index {α : Type} (x : Lanes α) {idx : Index} (h : idx.toNat < 8) (v : α)
    (k : Fin 8) : (x.set ⟨idx.toNat, h⟩ v).get k = if k.val = idx.toNat then v else x.get k := by
  simp only [Lanes.get_set, Fin.ext_iff]

/-- Settles O9: a write to IN or to CMD between commands is performed, every other is dropped. -/
theorem hostWriteEffects : Obligations.HostWriteEffects := by
  intro s idx v rest he
  rw [step_of_write he]
  refine ⟨fun hlt hb => ?_, fun hcmd hb => ?_, fun _ hb => ?_, fun hlo hcmd => ?_⟩
  · refine ⟨s.inReg.set ⟨idx.toNat, hlt⟩ v, ?_, lanes_get_set_index s.inReg hlt v⟩
    rw [memWrite_inp_idle (s := { s with inputs := rest }) v hlt hb]
  · have hi : idx = 0x011 := BitVec.eq_of_toNat_eq hcmd
    rw [hi, memWrite_cmd_idle (s := { s with inputs := rest }) v hb]
    rfl
  · rw [memWrite_busy (s := { s with inputs := rest }) idx v hb]
    rfl
  · have hnot : (idx.toNat < 8 ∨ idx = 0x011) → s.busy = true := by
      rintro (hlt | rfl)
      · omega
      · exact absurd rfl hcmd
    rw [memWrite_dropped (s := { s with inputs := rest }) v hnot]
    rfl

/-! ## Host reads (R52) -/

/-- A read of a register's index reads the register. -/
theorem memRead_of_toNat {idx : Index} (r : Reg) (draw : U256) (s : State)
    (h : idx.toNat = (regIndex r).toNat) : memRead draw idx s = readReg draw s r := by
  rw [memRead, BitVec.eq_of_toNat_eq h, regAt_regIndex]

/-- The indices of R51 that name no register. -/
theorem memRead_unmapped {idx : Index} (draw : U256) (s : State)
    (h : (0x015 ≤ idx.toNat ∧ idx.toNat < 0x100) ∨ 0x2C8 ≤ idx.toNat) :
    memRead draw idx s = 0 := by
  have hreg : regAt idx = none := by
    simp only [regAt]
    rw [dif_neg (by omega), dif_neg (by omega), if_neg (by omega), if_neg (by omega),
      if_neg (by omega), if_neg (by omega), if_neg (by omega), dif_neg (by omega),
      dif_neg (by omega)]
  rw [memRead, hreg]

/-- R207: a read of a result register while a command is outstanding is the draw. -/
theorem memRead_result_busy {idx : Index} (draw : U256) {s : State} (hb : s.busy = true)
    (h : (8 ≤ idx.toNat ∧ idx.toNat ≤ 0x010) ∨ idx.toNat = 0x013) :
    memRead draw idx s = draw := by
  by_cases hst : idx.toNat - 8 < 8 ∧ 8 ≤ idx.toNat
  · rw [memRead, regAt_st hst.2 hst.1]
    exact if_pos hb
  · obtain hf | hs : idx.toNat = 0x010 ∨ idx.toNat = 0x013 := by omega
    · rw [memRead_of_toNat .fres draw s hf]
      exact if_pos hb
    · rw [memRead_of_toNat .sched draw s hs]
      exact if_pos hb

theorem paramsWord_toNat : paramsWord.toNat = 0x0707300808 := by decide

/-- Settles O10: the value is that of the register the index names, register by register. -/
theorem hostReadReturnsTheMap : Obligations.HostReadReturnsTheMap := by
  intro s idx rest he
  have atReg (r : Reg) (h : idx.toNat = (regIndex r).toNat) :
      memRead (Config.draw s.draws) idx s = readReg (Config.draw s.draws) s r :=
    memRead_of_toNat r _ s h
  refine ⟨memRead (Config.draw s.draws) idx s, step_of_read he, fun k h => ?_, fun k h hb => ?_,
    fun h hb => ?_, fun h => ?_, fun h => ?_, fun h hb => ?_,
    fun h hb => memRead_result_busy _ hb h, fun h => ?_, fun r i h => ?_, fun i h => ?_,
    memRead_unmapped _ s⟩
  · exact atReg (.inp k) (h.trans (regIndex_inp k).symm)
  · rw [atReg (.st k) (h.trans (regIndex_st k).symm)]
    simp [readReg, hb]
  · rw [atReg .fres h]
    simp [readReg, hb]
  · exact atReg .cmd h
  · rw [atReg .status h]
    exact statusWord_toNat s
  · rw [atReg .sched h]
    simp only [readReg, hb]
    exact schedWord_toNat s
  · exact (congrArg BitVec.toNat (atReg .params h)).trans paramsWord_toNat
  · exact atReg (.rc r i) (h.trans (regIndex_rc r i).symm)
  · exact atReg (.d i) (h.trans (regIndex_d i).symm)

/-! ## What steps leave unchanged (R62, R64, R65) -/

/-- The unit's turn writes neither IN nor the configuration. -/
theorem unitStep_inReg_rom {s t : State} (h : unitStep s = .next t) :
    t.inReg = s.inReg ∧ t.rom = s.rom := by
  obtain ⟨-, rfl⟩ | ⟨-, -, i, u, -, rfl, hw⟩ | ⟨-, e, rfl⟩ := unitStep_cases h
  · exact ⟨rfl, rfl⟩
  · rw [succeed_inReg, succeed_rom, hw.eq_frame]
    exact ⟨rfl, rfl⟩
  · exact ⟨rfl, rfl⟩

theorem memWrite_rom (idx : Index) (v : U256) (s : State) : (memWrite idx v s).rom = s.rom := by
  obtain ⟨_, -, hx⟩ | ⟨-, -, hx⟩ | ⟨-, hx⟩ := memWrite_cases idx v s <;> rw [hx] <;> rfl

/-- Settles O55, by each kind of step. -/
theorem stepKeepsTheConfiguration : Obligations.StepKeepsTheConfiguration := by
  intro s t ht
  obtain ⟨-, hu⟩ | ⟨i, rest, -, hi⟩ := step_cases ht
  · exact (unitStep_inReg_rom hu).2
  · cases i with
    | unitTurn => exact (unitStep_inReg_rom hi).2
    | read idx => subst hi; rfl
    | write idx v => subst hi; exact memWrite_rom idx v _
    | reset => subst hi; rfl

/-- Settles O15: the unit's turn and reset end with BUSY = 0, so from busy to busy only the host has
moved, and its writes are dropped. -/
theorem registersAreStableWhileBusy : Obligations.RegistersAreStableWhileBusy := by
  intro s t hb ht htb
  obtain ⟨-, hu⟩ | ⟨i, rest, -, hi⟩ := step_cases ht
  · exact Bool.noConfusion (htb.symm.trans (unitStep_busy hu))
  · cases i with
    | unitTurn => exact Bool.noConfusion (htb.symm.trans (unitStep_busy hi))
    | reset => subst hi; exact Bool.noConfusion htb
    | read idx => subst hi; exact ⟨rfl, rfl, rfl, rfl, rfl, rfl⟩
    | write idx v =>
      have hx : t = hostError { s with inputs := rest } := hi.trans (memWrite_busy idx v hb)
      subst hx
      exact ⟨rfl, rfl, rfl, rfl, rfl, rfl⟩

/-! ## From a well-formed state every command completes (R189, R31) -/

/-- Where PHASE says that a round is due, RIDX names one. -/
theorem SchedOk.ridx_of_due {s : State} (h : SchedOk s)
    (hp : s.phase = .full1 ∨ s.phase = .part ∨ s.phase = .full2) : s.ridx.toNat < 56 := by
  obtain ⟨-, -, -, done, -⟩ := phaseOf_spec s.ridx.toNat
  have hne : s.phase ≠ .idle ∧ s.phase ≠ .init ∧ s.phase ≠ .done := by
    obtain hp | hp | hp := hp <;> simp [hp]
  obtain ⟨hi, hn, hd⟩ := hne
  exact Nat.lt_of_not_le fun hr => hd ((h.phaseOf_ridx hi hn).symm.trans (done.mpr hr))

theorem stepRound_answers {s : State} (round : Rom → Lanes Fe → Fin 56 → Lanes Fe)
    (h : s.ridx.toNat < 56) : ∃ t, stepRound s round = .next t := by
  rw [stepRound, dif_pos h]
  exact ⟨_, rfl⟩

theorem execPstep_answers {s : State} (h : SchedOk s) : ∃ t, execPstep s = .next t := by
  unfold execPstep
  cases hp : s.phase with
  | idle | init | done => exact ⟨_, rfl⟩
  | full1 => exact stepRound_answers _ (h.ridx_of_due (.inl hp))
  | part => exact stepRound_answers _ (h.ridx_of_due (.inr (.inl hp)))
  | full2 => exact stepRound_answers _ (h.ridx_of_due (.inr (.inr hp)))

theorem exec_answers {s : State} (i : Instr) (h : SchedOk s) : ∃ t, exec i s = .next t := by
  cases i with
  | pstep => exact execPstep_answers h
  | fadd | fmul | sbox | extl | intl | pstart | permute | hash => exact ⟨_, rfl⟩

theorem unitStep_answers {s : State} (h : SchedOk s) : ∃ t, unitStep s = .next t := by
  cases hb : s.busy with
  | false => exact ⟨s, by simp [unitStep, hb]⟩
  | true =>
    cases hd : decode s.cmd with
    | ok i => exact unitStep_of_decode hb hd ▸ exec_answers i h
    | error e => exact ⟨_, unitStep_of_illegal hb hd⟩

/-! ## A command sees neither HERR nor what is still to come (R61, R62, R206) -/

/-- The same state with another HERR and other inputs to come. -/
def withPort (herr : Bool) (inputs : List Input) (s : State) : State :=
  { s with herr := herr, inputs := inputs }

/-- A completion whose write does not see HERR or the inputs does the same whatever they are. -/
theorem complete_withPort {α : Type} {b : Bool} {l : List Input} {s : State}
    {ops : Except CmdError α} {write write' : α → State}
    (hw : ∀ a, write' a = withPort b l (write a)) :
    complete (withPort b l s) ops write' = withPort b l (complete s ops write) := by
  have hrom : (withPort b l s).rom = s.rom := rfl
  obtain ⟨hs, a, rfl, hx⟩ | ⟨hs, e, rfl, hx⟩ | ⟨hs, hx⟩ := complete_cases s ops write
  · rw [hx, complete_ok (hrom ▸ hs), hw]; rfl
  · rw [hx, complete_error (hrom ▸ hs)]; rfl
  · rw [hx, complete_badConfig (hrom ▸ hs)]; rfl

theorem stepRound_withPort {s t : State} {round : Rom → Lanes Fe → Fin 56 → Lanes Fe} (b : Bool)
    (l : List Input) (h : stepRound s round = .next t) :
    stepRound (withPort b l s) round = .next (withPort b l t) := by
  unfold stepRound at h
  split at h
  · rename_i hr
    injection h with h
    subst h
    exact (dif_pos hr).trans (congrArg Host.Outcome.next (complete_withPort fun _ => rfl))
  · cases h

theorem execPstep_withPort {s t : State} (b : Bool) (l : List Input)
    (h : execPstep s = .next t) : execPstep (withPort b l s) = .next (withPort b l t) := by
  have hp' : (withPort b l s).phase = s.phase := rfl
  unfold execPstep at h ⊢
  rw [hp']
  cases hp : s.phase with
  | idle | init | done =>
    simp only [hp] at h ⊢
    injection h with h
    subst h
    exact congrArg Host.Outcome.next (complete_withPort fun _ => rfl)
  | full1 | part | full2 =>
    simp only [hp] at h ⊢
    exact stepRound_withPort b l h

theorem exec_withPort {i : Instr} {s t : State} (b : Bool) (l : List Input)
    (h : exec i s = .next t) : exec i (withPort b l s) = .next (withPort b l t) := by
  cases i with
  | pstep => exact execPstep_withPort b l h
  | fadd | fmul | sbox | extl | intl | pstart | permute | hash =>
    injection h with h
    subst h
    exact congrArg Host.Outcome.next (complete_withPort fun _ => rfl)

theorem unitStep_withPort {s t : State} (b : Bool) (l : List Input) (hb : s.busy = true)
    (h : unitStep s = .next t) : unitStep (withPort b l s) = .next (withPort b l t) := by
  have hb' : (withPort b l s).busy = true := hb
  cases hd : decode s.cmd with
  | ok i =>
    rw [unitStep_of_decode hb' hd]
    exact exec_withPort b l (unitStep_of_decode hb hd ▸ h)
  | error e =>
    rw [unitStep_of_illegal hb hd] at h
    injection h with h
    subst h
    rw [unitStep_of_illegal hb' hd]
    exact congrArg Host.Outcome.next (complete_withPort fun _ => rfl)

/-- Two steps, each with what it answers. -/
theorem run_two {s t u : State} (h : step s = .next t) (h' : step t = .next u) :
    run 2 s = .next u := by
  rw [run_succ h, run_succ h', run]

/-- Settles O57: in either order the unit completes the same command on the same IN, in a state that
differs in HERR and the inputs alone, which the completion does not see. -/
theorem operandRaceLeavesTheResult : Obligations.OperandRaceLeavesTheResult := by
  intro s idx v hok hb hlt
  obtain ⟨t, ht⟩ := unitStep_answers hok.1
  have hin : t.inReg = s.inReg := (unitStep_inReg_rom ht).1
  have hbt : t.busy = false := unitStep_busy ht
  have unitFirst : step (withPort s.herr [.unitTurn, .write idx v] s)
      = .next (withPort s.herr [.write idx v] t) :=
    unitStep_withPort (s := s) s.herr [.write idx v] hb ht
  have writeLands : step (withPort s.herr [.write idx v] t)
      = .next { withPort s.herr [] t with inReg := t.inReg.set ⟨idx.toNat, hlt⟩ v } :=
    congrArg Host.Outcome.next
      (memWrite_inp_idle (s := withPort s.herr [] t) v hlt hbt)
  have writeDropped : step (withPort s.herr [.write idx v, .unitTurn] s)
      = .next (withPort true [.unitTurn] s) :=
    congrArg Host.Outcome.next (memWrite_busy (s := withPort s.herr [.unitTurn] s) idx v hb)
  have unitSecond : step (withPort true [.unitTurn] s) = .next (withPort true [] t) :=
    unitStep_withPort (s := s) true [] hb ht
  refine ⟨_, _, run_two unitFirst writeLands, run_two writeDropped unitSecond,
    rfl, rfl, rfl, rfl, rfl, rfl, rfl, rfl, rfl, rfl, fun k => ?_, hin⟩
  rw [← hin]
  exact lanes_get_set_index t.inReg hlt v k

/-! ## The bridge (R55) -/

/-- The bytes of a word from the lowest, over a number that stands above them. -/
theorem foldr_bytes (w : U256) (n a : Nat) :
    ((List.range n).map fun k => w.extractLsb' (8 * k) 8).foldr (fun b m => b.toNat + 256 * m) a
      = w.toNat % 256 ^ n + 256 ^ n * a := by
  induction n generalizing a with
  | zero => simp [Nat.mod_one]
  | succ n ih =>
    have hbyte : (w.extractLsb' (8 * n) 8).toNat = w.toNat / 256 ^ n % 256 := by
      rw [extractLsb'_toNat_div, Nat.pow_mul]
      norm_num
    rw [List.range_succ, List.map_append, List.foldr_append, ih, Nat.mod_pow_succ]
    simp only [List.map_cons, List.map_nil, List.foldr_cons, List.foldr_nil, hbyte]
    ring

theorem wordLow_bytesLow (w : U256) : wordLow (bytesLow w) = w := by
  have hlt : w.toNat < 256 ^ 32 := w.isLt.trans_eq (by norm_num)
  rw [wordLow, bytesLow, foldr_bytes, Nat.mod_eq_of_lt hlt, Nat.mul_zero, Nat.add_zero,
    BitVec.ofNat_toNat, BitVec.setWidth_eq]

theorem bytesLow_length (w : U256) : (bytesLow w).length = 32 := by simp [bytesLow]

/-- Settles O59: the 32 bytes are the digits of the word to base 256, and the other order is its
reverse both ways. -/
theorem bridgeGivesBackTheWord : Obligations.BridgeGivesBackTheWord := by
  intro o w
  cases o with
  | littleEndian => exact ⟨bytesLow_length w, wordLow_bytesLow w⟩
  | bigEndian =>
    simp only [bridgeBytes, bridgeWord, List.length_reverse, List.reverse_reverse]
    exact ⟨bytesLow_length w, wordLow_bytesLow w⟩

end Sys2Proof.Machine

namespace Sys2Proof

/-! ## Command words (R80 to R84) -/

/-- The opcode map of R83, read both ways. -/
theorem instrOfOpcode_eq_some_iff {n : Nat} {i : Instr} :
    instrOfOpcode n = some i ↔ n = (opcode i).toNat := by
  constructor
  · exact opcode_of_instrOfOpcode
  · rintro rfl
    cases i <;> rfl

/-- A word is a command exactly when RSV = 0 and the opcode map has OPC: OPC = 0x00, which the
decoder rejects by name, is not in the map. -/
theorem decode_eq_ok_iff {w : U256} {i : Instr} :
    decode w = .ok i ↔ w.toNat / 2 ^ 8 = 0 ∧ instrOfOpcode (w.toNat % 2 ^ 8) = some i := by
  rw [decode_eq]
  generalize w.toNat / 2 ^ 8 = rsv
  generalize w.toNat % 2 ^ 8 = opc
  by_cases hr : rsv = 0
  · by_cases hz : opc = 0
    · simp [hr, hz, instrOfOpcode]
    · cases hm : instrOfOpcode opc with
      | some j => simp [hr, hz]
      | none => simp [hr, hz]
  · simp [hr]

theorem encode_toNat (i : Instr) : (encode i).toNat = (opcode i).toNat := by
  have := (opcode i).isLt
  rw [encode, BitVec.toNat_setWidth, Nat.mod_eq_of_lt (by omega)]

/-- A word that decodes to a command is that command's own word. -/
theorem eq_encode_of_decode {w : U256} {i : Instr} (h : decode w = .ok i) : w = encode i := by
  obtain ⟨hrsv, hmap⟩ := decode_eq_ok_iff.mp h
  have hopc : w.toNat % 2 ^ 8 = (opcode i).toNat := instrOfOpcode_eq_some_iff.mp hmap
  apply BitVec.eq_of_toNat_eq
  rw [encode_toNat]
  omega

/-- Settles O1: `decode_encode` one way, and the fields of the word determine it the other way. -/
theorem decodeAndEncodeAgree : Obligations.DecodeAndEncodeAgree := by
  intro w i _
  constructor
  · exact eq_encode_of_decode
  · rintro rfl
    exact Machine.decode_encode i

/-- The opcode map has exactly 0x01 to 0x09. -/
theorem exists_instrOfOpcode_iff {n : Nat} :
    (∃ i, instrOfOpcode n = some i) ↔ 1 ≤ n ∧ n ≤ 9 := by
  constructor
  · rintro ⟨i, hi⟩
    rw [instrOfOpcode_eq_some_iff.mp hi]
    cases i <;> decide
  · rintro ⟨hlo, hhi⟩
    interval_cases n <;> exact ⟨_, rfl⟩

/-- Settles O3: a word is a command exactly when RSV = 0 and OPC is one of 0x01 to 0x09. -/
theorem illegalWordsAreTheReservedOnes : Obligations.IllegalWordsAreTheReservedOnes := by
  intro w
  have legal : (∃ i, decode w = .ok i) ↔
      w.toNat / 2 ^ 8 = 0 ∧ 1 ≤ w.toNat % 2 ^ 8 ∧ w.toNat % 2 ^ 8 ≤ 9 := by
    simp only [decode_eq_ok_iff, exists_and_left, exists_instrOfOpcode_iff]
  rw [← not_exists, legal]
  omega

/-- Settles O2: the first nine words are the words of the nine commands; the last three are refused
one by one. -/
theorem writtenWordsDecode : Obligations.WrittenWordsDecode :=
  ⟨Machine.decode_encode .fadd, Machine.decode_encode .fmul, Machine.decode_encode .sbox,
    Machine.decode_encode .extl, Machine.decode_encode .intl, Machine.decode_encode .pstart,
    Machine.decode_encode .pstep, Machine.decode_encode .permute, Machine.decode_encode .hash,
    by decide, by decide, by decide⟩

end Sys2Proof

namespace Sys2Proof.Machine

/-! ## Success of a command (R85, R184) -/

/-- A completion whose checks give operands reports success. -/
theorem complete_succeeds {α : Type} {s : State} {ops : Except CmdError α} {a : α}
    {write : α → State} (hc : cfgOk s.rom = true) (ho : ops = .ok a) :
    ∃ t, Host.Outcome.next (φ := Fault) (ρ := Refusal) (complete s ops write) = .next t ∧
      t.done = true ∧ t.err = false ∧ t.busy = false := by
  refine ⟨_, rfl, ?_⟩
  rw [ho, complete_ok hc]
  exact ⟨rfl, rfl, rfl⟩

/-- Settles O50: each command's checks give its operands, because the lanes they check are
canonical. -/
theorem commandsCompleteOnCanonicalOperands : Obligations.CommandsCompleteOnCanonicalOperands := by
  intro i s hi hc hcanon
  cases i with
  | fadd | fmul =>
    exact complete_succeeds hc (operands2_ok (hcanon 0 (by decide)) (hcanon 1 (by decide)))
  | sbox => exact complete_succeeds hc (operand_ok (hcanon 0 (by decide)))
  | extl | intl | pstart | permute =>
    exact complete_succeeds hc (operands8_ok fun k => hcanon k k.isLt)
  | hash => exact complete_succeeds hc (operands7_ok hcanon)
  | pstep => exact absurd rfl hi

/-! ## Which commands write which registers (R85) -/

/-- FRES is written by the field commands and HASH alone. -/
theorem Wrote.fres_kept_or {i : Instr} {s u : State} (hw : Wrote i s u) :
    u.fres = s.fres ∨ i = .fadd ∨ i = .fmul ∨ i = .sbox ∨ i = .hash := by
  cases i with
  | fadd | fmul | sbox | hash => exact .inr (by decide)
  | extl | intl | pstart | permute =>
    simp only [Wrote] at hw
    rw [hw]
    exact .inl rfl
  | pstep =>
    obtain ⟨-, hw⟩ | ⟨-, r, -, hw⟩ := hw <;> (rw [hw]; exact .inl rfl)

/-- ST and SCHED are written by every command but the field commands. -/
theorem Wrote.st_sched_kept_or {i : Instr} {s u : State} (hw : Wrote i s u) :
    (u.st = s.st ∧ u.phase = s.phase ∧ u.ridx = s.ridx) ∨
      i = .extl ∨ i = .intl ∨ i = .pstart ∨ i = .pstep ∨ i = .permute ∨ i = .hash := by
  cases i with
  | fadd | fmul | sbox =>
    simp only [Wrote] at hw
    rw [hw]
    exact .inl ⟨rfl, rfl, rfl⟩
  | extl | intl | pstart | pstep | permute | hash => exact .inr (by decide)

/-- Settles O51: a command that fails changes STATUS alone, and one that succeeds writes what
`Wrote` says. -/
theorem commandsWriteOnlyTheirRegisters : Obligations.CommandsWriteOnlyTheirRegisters := by
  intro i s t h
  obtain ⟨-, u, rfl, hw⟩ | ⟨e, rfl⟩ := exec_cases h
  · have frame : u.inReg = s.inReg ∧ u.cmd = s.cmd ∧ u.herr = s.herr ∧ u.rom = s.rom ∧
        u.inputs = s.inputs ∧ u.reads = s.reads ∧ u.draws = s.draws := by
      rw [hw.eq_frame]
      exact ⟨rfl, rfl, rfl, rfl, rfl, rfl, rfl⟩
    obtain ⟨hin, hcmd, hherr, hrom, hinputs, hreads, hdraws⟩ := frame
    exact ⟨hin, hcmd, hherr, hrom, hinputs, hreads, hdraws,
      hw.fres_kept_or.imp_right fun hi => ⟨rfl, hi⟩,
      hw.st_sched_kept_or.imp_right fun hi => ⟨rfl, hi⟩⟩
  · exact ⟨rfl, rfl, rfl, rfl, rfl, rfl, rfl, .inl rfl, .inl ⟨rfl, rfl, rfl⟩⟩

/-! ## Host statements and bus transactions (R86, R88) -/

/-- A host write does not see what is still to come. -/
theorem memWrite_inputs (idx : Index) (v : U256) (s : State) (rest : List Input) :
    memWrite idx v { s with inputs := rest } = { memWrite idx v s with inputs := rest } := by
  obtain ⟨hlt, hb, hx⟩ | ⟨rfl, hb, hx⟩ | ⟨hbusy, hx⟩ := memWrite_cases idx v s
  · rw [hx, memWrite_inp_idle (s := { s with inputs := rest }) v hlt hb]
  · rw [hx, memWrite_cmd_idle (s := { s with inputs := rest }) v hb]
    rfl
  · rw [hx, memWrite_dropped (s := { s with inputs := rest }) v hbusy]
    rfl

/-- A jump does not touch the unit. -/
theorem jump_keeps_unit {h h' : HostAgent} {l : String} {s t : State}
    (hj : h.jump l s = .moved h' t) : t = s := by
  unfold HostAgent.jump at hj
  split at hj
  · injection hj with _ ht
    exact ht.symm
  · cases hj

/-- All that a turn of the host can do to the unit: the write or the read of its bus transaction, or
nothing where it has none. -/
theorem hostTurn_cases {h h' : HostAgent} {s t : State} (ht : hostTurn h s = .moved h' t) :
    (∃ idx v, busTransaction h = some (.write idx v) ∧ t = memWrite idx v s) ∨
    (∃ idx, busTransaction h = some (.read idx) ∧ t = hostRead idx s) ∨
    (busTransaction h = none ∧ t = s) := by
  unfold hostTurn at ht
  unfold busTransaction
  cases hp : h.prog[h.pos]? with
  | none => simp [hp] at ht
  | some st =>
    simp only [hp] at ht ⊢
    cases st with
    | wr reg v =>
      cases hv : h.operandValue v with
      | none => simp [hv] at ht
      | some w =>
        simp only [hv] at ht
        injection ht with _ ht
        exact .inl ⟨regIndex reg, w, congrArg (Option.map _) hv, ht.symm⟩
    | rd x reg =>
      injection ht with _ ht
      exact .inr (.inl ⟨regIndex reg, rfl, ht.symm⟩)
    | label l =>
      injection ht with _ ht
      exact .inr (.inr ⟨rfl, ht.symm⟩)
    | goto l => exact .inr (.inr ⟨rfl, jump_keeps_unit ht⟩)
    | ifGoto c l =>
      refine .inr (.inr ⟨rfl, ?_⟩)
      cases hv : h.value c.x with
      | none => simp [hv] at ht
      | some v =>
        simp only [hv] at ht
        split at ht
        · exact jump_keeps_unit ht
        · injection ht with _ ht
          exact ht.symm

/-- Settles O58: the unit's step on a bus transaction is the host access itself, which does not see
what is still to come. -/
theorem hostStatementsAreBusTransactions : Obligations.HostStatementsAreBusTransactions := by
  intro h h' s t ht
  obtain ⟨idx, v, hbus, rfl⟩ | ⟨idx, hbus, rfl⟩ | ⟨hbus, rfl⟩ := hostTurn_cases ht
  · rw [hbus]
    intro rest
    rw [step_of_write rfl, memWrite_inputs, memWrite_inputs]
  · rw [hbus]
    intro rest
    rw [step_of_read rfl]
    rfl
  · rw [hbus]

end Sys2Proof.Machine

namespace Sys2Proof.Machine

/-! ## The field commands (R103 to R106) -/

theorem operands2_error_zero {s : State} (h0 : F ≤ (s.inReg.get 0).toNat) :
    operands2 s = .error (.invalidInput 0) := by
  simp only [operands2, operand_error h0]

theorem operands2_error_one {s : State} (h0 : (s.inReg.get 0).toNat < F)
    (h1 : F ≤ (s.inReg.get 1).toNat) : operands2 s = .error (.invalidInput 1) := by
  simp only [operands2, operand_ok h0, operand_error h1]

theorem add_ofNat (m n : Nat) : add (Fe.ofNat m) (Fe.ofNat n) = Fe.ofNat (m + n) :=
  Fin.ext (Nat.add_mod m n F).symm

theorem mul_ofNat (m n : Nat) : mul (Fe.ofNat m) (Fe.ofNat n) = Fe.ofNat (m * n) :=
  Fin.ext (Nat.mul_mod m n F).symm

/-- R103. -/
theorem exec_fadd (s : State) :
    exec .fadd s
      = .next (complete s (operands2 s) fun ab => { s with fres := add ab.1 ab.2 }) := rfl

/-- R104. -/
theorem exec_fmul (s : State) :
    exec .fmul s
      = .next (complete s (operands2 s) fun ab => { s with fres := mul ab.1 ab.2 }) := rfl

/-- R105. -/
theorem exec_sbox (s : State) :
    exec .sbox s = .next (complete s (operand s 0) fun x => { s with fres := sbox x }) := rfl

/-- What a command over IN0 and IN1 does that writes `f` of them to FRES, where `f` is the operation
`g` on numbers reduced modulo F. -/
theorem exec_operands2_fres {i : Instr} {f : Fe → Fe → Fe} {g : Nat → Nat → Nat} {s : State}
    (hexec : exec i s
      = .next (complete s (operands2 s) fun ab => { s with fres := f ab.1 ab.2 }))
    (hf : ∀ m n, f (Fe.ofNat m) (Fe.ofNat n) = Fe.ofNat (g m n)) (hc : cfgOk s.rom = true) :
    (F ≤ (s.inReg.get 0).toNat → exec i s = .next (raise (.invalidInput 0) s)) ∧
    ((s.inReg.get 0).toNat < F → F ≤ (s.inReg.get 1).toNat →
      exec i s = .next (raise (.invalidInput 1) s)) ∧
    ((s.inReg.get 0).toNat < F → (s.inReg.get 1).toNat < F →
      exec i s = .next (succeed
        { s with fres := Fe.ofNat (g (s.inReg.get 0).toNat (s.inReg.get 1).toNat) })) := by
  rw [hexec]
  refine ⟨fun h0 => ?_, fun h0 h1 => ?_, fun h0 h1 => ?_⟩
  · rw [operands2_error_zero h0, complete_error hc]
  · rw [operands2_error_one h0 h1, complete_error hc]
  · rw [operands2_ok h0 h1, complete_ok hc, hf]

/-- Settles O22: the one operand is checked first, and the addition chain gives its seventh power
(`sbox_ofNat`). -/
theorem sboxIsTheSeventhPower : Obligations.SboxIsTheSeventhPower := by
  refine ⟨by decide, fun s hc => ⟨fun h0 => ?_, fun h0 => ?_⟩⟩
  · rw [exec_sbox, operand_error h0, complete_error hc]
    rfl
  · rw [exec_sbox, operand_ok h0, complete_ok hc, sbox_ofNat]
    rfl

/-- Settles O20, by `exec_operands2_fres` for addition. -/
theorem faddAddsModuloF : Obligations.FaddAddsModuloF :=
  ⟨by decide, fun s hc => exec_operands2_fres (exec_fadd s) add_ofNat hc⟩

/-- Settles O21, by `exec_operands2_fres` for multiplication. -/
theorem fmulMultipliesModuloF : Obligations.FmulMultipliesModuloF :=
  ⟨by decide, fun s hc => exec_operands2_fres (exec_fmul s) mul_ofNat hc⟩

/-! ## The S-box is a bijection (R107) -/

/-- In a field whose number of units has no common divisor with `n`, the n-th power is injective:
it is so on the units, and only 0 has the n-th power 0. -/
theorem pow_injective_of_coprime_card_units {K : Type} [Field K] {n : Nat} (hn : n ≠ 0)
    (hcop : (Nat.card Kˣ).Coprime n) : Function.Injective fun x : K => x ^ n := by
  intro x y (h : x ^ n = y ^ n)
  have hzero : x = 0 ↔ y = 0 := by rw [← pow_eq_zero_iff hn, h, pow_eq_zero_iff hn]
  by_cases hx : x = 0
  · rw [hx, hzero.mp hx]
  · have hy : y ≠ 0 := hzero.not.mp hx
    have hunits : Units.mk0 x hx ^ n = Units.mk0 y hy ^ n := Units.ext h
    exact congrArg Units.val (hcop.pow_left_bijective.injective hunits)

/-- R7: 7 has no common divisor with F - 1. -/
theorem coprime_F_sub_one_seven : (F - 1).Coprime 7 := by decide +kernel

/-- Settles O23: F is prime and 7 has no common divisor with F - 1, the number of units, so the
seventh power is injective on the residues; and [0, F) is finite. -/
theorem sboxIsABijection : Obligations.SboxIsABijection := by
  have : Fact F.Prime := ⟨Laws.Prime.F_prime⟩
  have hcard : (Nat.card (ZMod F)ˣ).Coprime 7 := by
    rw [Nat.card_eq_fintype_card, ZMod.card_units]
    exact coprime_F_sub_one_seven
  have hinj : Function.Injective sbox := by
    intro x y h
    apply residue_injective
    apply pow_injective_of_coprime_card_units (by decide) hcard
    simpa only [residue_sbox] using congrArg residue h
  exact Finite.injective_iff_bijective.mp hinj

end Sys2Proof.Machine

namespace Sys2Proof.Lanes

@[simp] theorem get_map {α β : Type} (f : α → β) (v : Lanes α) (k : Fin 8) :
    (v.map f).get k = f (v.get k) := by
  fin_cases k <;> rfl

end Sys2Proof.Lanes

namespace Sys2Proof.Machine

/-! ## Commands over all eight lanes (R85, R184) -/

/-- R128. -/
theorem exec_extl (s : State) :
    exec .extl s
      = .next (complete s (operands8 s) fun x =>
          { s with st := extLayer x, phase := .idle, ridx := 0 }) := rfl

/-- R129. -/
theorem exec_intl (s : State) :
    exec .intl s
      = .next (complete s (operands8 s) fun x =>
          { s with st := intLayer s.rom.d x, phase := .idle, ridx := 0 }) := rfl

/-- What a command over IN0..IN7 does that writes `write` of them: it succeeds on eight canonical
lanes, and otherwise reports the lowest lane that is not canonical. -/
theorem exec_operands8 {i : Instr} {write : Lanes Fe → State} {s : State}
    (hexec : exec i s = .next (complete s (operands8 s) write)) (hc : cfgOk s.rom = true) :
    ((∀ k : Fin 8, (s.inReg.get k).toNat < F) →
      exec i s = .next (succeed (write (Lanes.ofFn fun k => Fe.ofNat (s.inReg.get k).toNat)))) ∧
    (∀ k : Fin 8, (∀ j : Fin 8, j.val < k.val → (s.inReg.get j).toNat < F) →
      F ≤ (s.inReg.get k).toNat → exec i s = .next (raise (.invalidInput k) s)) := by
  rw [hexec]
  refine ⟨fun hcanon => ?_, fun k hlow hbad => ?_⟩
  · rw [operands8_ok hcanon, complete_ok hc]
    rfl
  · rw [operands8_error hlow hbad, complete_error hc]

/-- Settles O24, by `exec_operands8` for the external layer. -/
theorem extlWritesTheExternalLayer : Obligations.ExtlWritesTheExternalLayer :=
  ⟨by decide, fun s hc => exec_operands8 (exec_extl s) hc⟩

/-- Settles O28, by `exec_operands8` for the internal layer. -/
theorem intlWritesTheInternalLayer : Obligations.IntlWritesTheInternalLayer :=
  ⟨by decide, fun s hc => exec_operands8 (exec_intl s) hc⟩

/-! ## The internal layer (R126) -/

theorem laneSum_eq_ofNat (x : Lanes Fe) :
    laneSum x = Fe.ofNat (x.l0.val + x.l1.val + x.l2.val + x.l3.val + x.l4.val + x.l5.val
      + x.l6.val + x.l7.val) :=
  Fin.ext (laneSum_val x)

/-- Settles O29: lane by lane, the field operations are those on numbers reduced modulo F. -/
theorem internalLayerFormula : Obligations.InternalLayerFormula := by
  intro d x k
  calc (intLayer d x).get k
      = add (mul (romFe (d.get k)) (x.get k)) (laneSum x) := Lanes.get_zipWith _ d x k
    _ = add (mul (Fe.ofNat (d.get k).toNat) (Fe.ofNat (x.get k).val)) (laneSum x) := by
        rw [Fe.ofNat_self, romFe]
    _ = _ := by rw [laneSum_eq_ofNat, mul_ofNat, add_ofNat]

/-! ## The external layer as a matrix (R121, R123) -/

/-- R121: the additions of M4 amount to its matrix. -/
theorem m4_ofNat (a b c d : Nat) :
    m4 (Fe.ofNat a) (Fe.ofNat b) (Fe.ofNat c) (Fe.ofNat d) =
      (Fe.ofNat (5 * a + 7 * b + c + 3 * d), Fe.ofNat (4 * a + 6 * b + c + d),
       Fe.ofNat (a + 3 * b + 5 * c + 7 * d), Fe.ofNat (a + b + 4 * c + 6 * d)) := by
  simp only [m4, add_ofNat, Prod.mk.injEq]
  refine ⟨?_, ?_, ?_, ?_⟩ <;> (congr 1; ring)

/-- Settles O25: each half is multiplied by M4 (`m4_ofNat`), and the cross mix makes of the halves y
and z the lanes 2y + z and y + 2z. -/
theorem externalLayerIsTheMatrix : Obligations.ExternalLayerIsTheMatrix := by
  intro a b c d e f g h
  have hy := m4_ofNat a b c d
  have hz := m4_ofNat e f g h
  simp only [Fe.ofNat_self] at hy hz
  simp only [extLayer, hy, hz, add_ofNat, Lanes.mk.injEq]
  refine ⟨?_, ?_, ?_, ?_, ?_, ?_, ?_, ?_⟩ <;> (congr 1; ring)

/-- R123: the matrix M_E. -/
def extMatrix : Matrix (Fin 8) (Fin 8) Int :=
  !![10, 14, 2, 6, 5, 7, 1, 3;
     8, 12, 2, 2, 4, 6, 1, 1;
     2, 6, 10, 14, 1, 3, 5, 7;
     2, 2, 8, 12, 1, 1, 4, 6;
     5, 7, 1, 3, 10, 14, 2, 6;
     4, 6, 1, 1, 8, 12, 2, 2;
     1, 3, 5, 7, 2, 6, 10, 14;
     1, 1, 4, 6, 2, 2, 8, 12]

/-- 24 times the inverse of M_E: the blocks 2·N, -N, -N, 2·N, where N is 8 times the inverse of
M4. -/
def extMatrixInv24 : Matrix (Fin 8) (Fin 8) Int :=
  !![-2, 6, -12, 14, 1, -3, 6, -7;
     2, -2, 8, -10, -1, 1, -4, 5;
     -12, 14, -2, 6, 6, -7, 1, -3;
     8, -10, 2, -2, -4, 5, -1, 1;
     1, -3, 6, -7, -2, 6, -12, 14;
     -1, 1, -4, 5, 2, -2, 8, -10;
     6, -7, 1, -3, -12, 14, -2, 6;
     -4, 5, -1, 1, 8, -10, 2, -2]

theorem extMatrixInv24_mul : extMatrixInv24 * extMatrix = 24 := by decide +kernel

/-- The lanes as a vector of residues. -/
def residues (x : Lanes Fe) : Fin 8 → ZMod F := fun k => residue (x.get k)

theorem residues_injective : Function.Injective residues := fun _ _ h =>
  Lanes.ext_get fun k => residue_injective (congrFun h k)

@[simp] theorem residues_zipWith_add (x y : Lanes Fe) :
    residues (Lanes.zipWith add x y) = residues x + residues y := by
  funext k
  simp [residues]

@[simp] theorem residues_map_mul (c : Fe) (x : Lanes Fe) :
    residues (x.map (mul c)) = residue c • residues x := by
  funext k
  simp [residues]

@[simp] theorem residues_const_zero : residues (Lanes.const (Fe.ofNat 0)) = 0 := by
  funext k
  simp [residues]

/-- M_E over the residues. -/
def extMatrixMod : Matrix (Fin 8) (Fin 8) (ZMod F) := (Int.castRingHom (ZMod F)).mapMatrix extMatrix

/-- R123: on residues the external layer is multiplication by M_E. -/
theorem residues_extLayer (x : Lanes Fe) :
    residues (extLayer x) = extMatrixMod.mulVec (residues x) := by
  obtain ⟨a, b, c, d, e, f, g, h⟩ := x
  rw [externalLayerIsTheMatrix]
  funext k
  fin_cases k <;>
    simp [residues, residue, Lanes.get, extMatrixMod, extMatrix, Matrix.mulVec, dotProduct,
      Fin.sum_univ_eight]

/-- Settles O26: on residues the external layer is multiplication by M_E, which is linear. -/
theorem externalLayerIsLinear : Obligations.ExternalLayerIsLinear := by
  refine ⟨fun x y => ?_, fun c x => ?_, ?_⟩ <;> apply residues_injective
  · simp only [residues_extLayer, residues_zipWith_add, Matrix.mulVec_add]
  · simp only [residues_extLayer, residues_map_mul, Matrix.mulVec_smul]
  · simp only [residues_extLayer, residues_const_zero, Matrix.mulVec_zero]

/-- 24 has no common divisor with F. -/
theorem isUnit_24 : IsUnit (24 : ZMod F) :=
  (ZMod.isUnit_iff_coprime 24 F).mpr (by decide +kernel)

/-- M_E has the inverse `extMatrixInv24` / 24, so it can be cancelled. -/
theorem extMatrixMod_mulVec_injective : Function.Injective extMatrixMod.mulVec := by
  intro v w (h : extMatrixMod.mulVec v = extMatrixMod.mulVec w)
  have hinv : (Int.castRingHom (ZMod F)).mapMatrix extMatrixInv24 * extMatrixMod = 24 := by
    rw [extMatrixMod, ← map_mul, extMatrixInv24_mul, map_ofNat]
  have h24 : (24 : ZMod F) • v = (24 : ZMod F) • w := by
    simpa only [Matrix.mulVec_mulVec, hinv, Matrix.ofNat_mulVec]
      using congrArg ((Int.castRingHom (ZMod F)).mapMatrix extMatrixInv24).mulVec h
  exact isUnit_24.smul_left_cancel.mp h24

/-- Settles O27: on residues the external layer is multiplication by M_E, which can be cancelled;
and there are finitely many vectors of eight lanes. -/
theorem externalLayerIsABijection : Obligations.ExternalLayerIsABijection := by
  have : Finite (Lanes Fe) := Finite.of_injective residues residues_injective
  refine Finite.injective_iff_bijective.mp fun x y h => ?_
  apply residues_injective
  apply extMatrixMod_mulVec_injective
  rw [← residues_extLayer, ← residues_extLayer, h]

end Sys2Proof.Machine

namespace Sys2Proof.Machine

/-! ## PSTART and PERMUTE (R145, R147) -/

/-- R145. -/
theorem exec_pstart (s : State) :
    exec .pstart s
      = .next (complete s (operands8 s) fun x => { s with st := x, phase := .init, ridx := 0 }) :=
  rfl

/-- R147. -/
theorem exec_permute (s : State) :
    exec .permute s
      = .next (complete s (operands8 s) fun x =>
          { s with st := permute s.rom x, phase := .done, ridx := 56 }) := rfl

/-- Settles O30, by `exec_operands8` for the load of IN. -/
theorem pstartLoadsTheState : Obligations.PstartLoadsTheState :=
  ⟨by decide, fun s hc => exec_operands8 (exec_pstart s) hc⟩

/-- Settles O36, by `exec_operands8` for the permutation. -/
theorem permuteWritesThePermutedState : Obligations.PermuteWritesThePermutedState :=
  ⟨by decide, fun s hc => exec_operands8 (exec_permute s) hc⟩

/-! ## PSTEP by its phase (R146) -/

theorem exec_pstep_idle_done {s : State} (hc : cfgOk s.rom = true)
    (hp : s.phase = .idle ∨ s.phase = .done) :
    exec .pstep s = .next (raise .sequenceError s) := by
  change execPstep s = _
  obtain hp | hp := hp <;> simp only [execPstep, hp, complete_error hc]

theorem exec_pstep_init {s : State} (hc : cfgOk s.rom = true) (hp : s.phase = .init) :
    exec .pstep s = .next (succeed { s with st := extLayer s.st, phase := .full1 }) := by
  change execPstep s = _
  simp only [execPstep, hp, complete_ok hc]

theorem stepRound_eq {s : State} {r : Fin 56} (round : Rom → Lanes Fe → Fin 56 → Lanes Fe)
    (hc : cfgOk s.rom = true) (hr : s.ridx.toNat = r.val) :
    stepRound s round = .next (succeed (advance s r (round s.rom s.st r))) := by
  have h : s.ridx.toNat < 56 := hr ▸ r.isLt
  have hr' : (⟨s.ridx.toNat, h⟩ : Fin 56) = r := Fin.ext hr
  rw [stepRound, dif_pos h, complete_ok hc, hr']

theorem exec_pstep_full {s : State} {r : Fin 56} (hc : cfgOk s.rom = true)
    (hr : s.ridx.toNat = r.val) (hp : s.phase = .full1 ∨ s.phase = .full2) :
    exec .pstep s = .next (succeed (advance s r (fullRound s.rom s.st r))) := by
  change execPstep s = _
  obtain hp | hp := hp <;> simp only [execPstep, hp, stepRound_eq fullRound hc hr]

theorem exec_pstep_part {s : State} {r : Fin 56} (hc : cfgOk s.rom = true)
    (hr : s.ridx.toNat = r.val) (hp : s.phase = .part) :
    exec .pstep s = .next (succeed (advance s r (partialRound s.rom s.st r))) := by
  change execPstep s = _
  simp only [execPstep, hp, stepRound_eq partialRound hc hr]

/-- Settles O31: the four cases of R146. -/
theorem pstepMakesOneTransition : Obligations.PstepMakesOneTransition :=
  ⟨by decide, fun _ hc => ⟨exec_pstep_idle_done hc, exec_pstep_init hc,
    fun _ hr => exec_pstep_full hc hr, fun _ hr => exec_pstep_part hc hr⟩⟩

/-- The phase after round k, as the table of R146 writes it. -/
theorem phaseOf_succ (k : Nat) :
    phaseOf (k + 1) =
      if k < 3 then .full1 else if k < 51 then .part else if k < 55 then .full2 else .done := by
  have h4 : k + 1 < 4 ↔ k < 3 := by omega
  have h52 : k + 1 < 52 ↔ k < 51 := by omega
  have h56 : k + 1 < 56 ↔ k < 55 := by omega
  simp only [phaseOf, h4, h52, h56]

/-- In a phase with a round due, RIDX is the number of a round, and the phase is that round's. -/
theorem SchedOk.exists_round {s : State} (h : SchedOk s)
    (hp : s.phase = .full1 ∨ s.phase = .part ∨ s.phase = .full2) :
    ∃ r : Fin 56, s.ridx.toNat = r.val ∧ s.phase = phaseOf r.val := by
  have hidle : s.phase ≠ .idle := by obtain hp | hp | hp := hp <;> simp [hp]
  have hinit : s.phase ≠ .init := by obtain hp | hp | hp := hp <;> simp [hp]
  exact ⟨⟨s.ridx.toNat, h.ridx_of_due hp⟩, rfl, (h.phaseOf_ridx hidle hinit).symm⟩

/-- R31: the values of RIDX fit its 8 bits. -/
theorem ridx_ofNat_toNat {n : Nat} (h : n ≤ 56) : (BitVec.ofNat 8 n).toNat = n := by
  rw [BitVec.toNat_ofNat]
  omega

theorem SchedOk.ridx_of_idle {s : State} (h : SchedOk s) (hp : s.phase = .idle) : s.ridx = 0 := by
  obtain ⟨-, -, -, -, not_idle, -⟩ := phaseOf_spec s.ridx.toNat
  obtain ⟨-, hr⟩ | ⟨hp', -⟩ | ⟨-, hp'⟩ := h
  · exact hr
  · cases hp.symm.trans hp'
  · exact absurd (hp'.symm.trans hp) not_idle

theorem SchedOk.ridx_of_done {s : State} (h : SchedOk s) (hp : s.phase = .done) :
    s.ridx = 56 := by
  obtain ⟨-, -, -, done, -⟩ := phaseOf_spec s.ridx.toNat
  obtain ⟨hp', -⟩ | ⟨hp', -⟩ | ⟨hle, hp'⟩ := h
  · cases hp.symm.trans hp'
  · cases hp.symm.trans hp'
  · exact BitVec.eq_of_toNat_eq (le_antisymm hle (done.mp (hp'.symm.trans hp)))

/-- Settles O32: the row of the table for each phase; where a round is due, SchedOk gives it. -/
theorem pstepFollowsTheTable : Obligations.PstepFollowsTheTable := by
  intro s hs hc
  cases hp : s.phase with
  | idle =>
    refine ⟨_, exec_pstep_idle_done hc (.inl hp), ?_⟩
    simp [hp, hs.ridx_of_idle hp, errorCode]
  | init =>
    refine ⟨_, exec_pstep_init hc hp, ?_⟩
    simp [hs.ridx_of_init hp]
  | full1 =>
    obtain ⟨r, hr, hpr⟩ := hs.exists_round (.inl hp)
    obtain ⟨full1, -⟩ := phaseOf_spec r.val
    have hlt : r.val < 4 := full1.mp (hpr.symm.trans hp)
    have h51 : r.val < 51 := by omega
    refine ⟨_, exec_pstep_full hc hr (.inl hp), ?_⟩
    simp only [reduceCtorEq, false_implies, true_implies, true_and, and_true]
    refine ⟨r, hr, hlt, ridx_ofNat_toNat r.isLt, ?_, rfl, rfl⟩
    rw [succeed_phase, advance_phase, phaseOf_succ, if_pos h51]
  | part =>
    obtain ⟨r, hr, hpr⟩ := hs.exists_round (.inr (.inl hp))
    obtain ⟨-, part, -⟩ := phaseOf_spec r.val
    obtain ⟨hge, hlt⟩ := part.mp (hpr.symm.trans hp)
    have h3 : ¬ r.val < 3 := by omega
    have h55 : r.val < 55 := by omega
    refine ⟨_, exec_pstep_part hc hr hp, ?_⟩
    simp only [reduceCtorEq, false_implies, true_implies, true_and, and_true]
    refine ⟨r, hr, hge, hlt, ridx_ofNat_toNat r.isLt, ?_, rfl, rfl⟩
    rw [succeed_phase, advance_phase, phaseOf_succ, if_neg h3, if_pos h55]
  | full2 =>
    obtain ⟨r, hr, hpr⟩ := hs.exists_round (.inr (.inr hp))
    obtain ⟨-, -, full2, -⟩ := phaseOf_spec r.val
    obtain ⟨hge, -⟩ := full2.mp (hpr.symm.trans hp)
    have h3 : ¬ r.val < 3 := by omega
    have h51 : ¬ r.val < 51 := by omega
    refine ⟨_, exec_pstep_full hc hr (.inr hp), ?_⟩
    simp only [reduceCtorEq, false_implies, true_implies, true_and, and_true]
    refine ⟨r, hr, hge, ridx_ofNat_toNat r.isLt, ?_, rfl, rfl⟩
    rw [succeed_phase, advance_phase, phaseOf_succ, if_neg h3, if_neg h51]
  | done =>
    refine ⟨_, exec_pstep_idle_done hc (.inr hp), ?_⟩
    simp [hp, hs.ridx_of_done hp, errorCode]

/-! ## The rounds as formulas (R141, R142) -/

/-- R141, R142: a constant of the ROM added, then the S-box, as one number reduced modulo F. -/
theorem sbox_add_romFe (x : Fe) (c : U256) :
    sbox (add x (romFe c)) = Fe.ofNat ((x.val + c.toNat) ^ 7) := by
  calc sbox (add x (romFe c)) = sbox (add (Fe.ofNat x.val) (Fe.ofNat c.toNat)) := by
        rw [Fe.ofNat_self, romFe]
    _ = _ := by rw [add_ofNat, sbox_ofNat]

/-- Settles O33, lane by lane. -/
theorem fullRoundFormula : Obligations.FullRoundFormula := by
  intro rom s r
  refine congrArg extLayer (Lanes.ext_get fun k => ?_)
  rw [Lanes.get_zipWith, Lanes.get_ofFn, sbox_add_romFe]

/-- Settles O34: of the round's row only lane 0 is read. -/
theorem partialRoundFormula : Obligations.PartialRoundFormula := by
  refine ⟨fun rom s r => ?_, fun rom rom' s r hd h0 => ?_⟩
  · rw [partialRound, sbox_add_romFe]
  · rw [partialRound, partialRound, hd, h0]

/-! ## The permutation as one sequence of rounds (R140, R143) -/

/-- R140: round r of the schedule, full or partial. -/
def roundAt (rom : Rom) (x : Lanes Fe) (r : Fin 56) : Lanes Fe :=
  if r.val < 4 ∨ 52 ≤ r.val then fullRound rom x r else partialRound rom x r

theorem roundAt_full (rom : Rom) (x : Lanes Fe) {r : Fin 56} (hr : r.val < 4 ∨ 52 ≤ r.val) :
    roundAt rom x r = fullRound rom x r := if_pos hr

theorem roundAt_partial (rom : Rom) (x : Lanes Fe) {r : Fin 56} (hr : 4 ≤ r.val ∧ r.val < 52) :
    roundAt rom x r = partialRound rom x r := if_neg (by omega)

/-- R143: the three loops are one loop over all rounds. -/
theorem permute_eq_foldl (rom : Rom) (x : Lanes Fe) :
    permute rom x = (List.finRange 56).foldl (roundAt rom) (extLayer x) := by
  have full {lo hi : Nat} (hb : hi ≤ 4 ∨ 52 ≤ lo) (y : Lanes Fe) :
      (roundsFrom lo hi).foldl (roundAt rom) y = (roundsFrom lo hi).foldl (fullRound rom) y := by
    refine List.foldl_ext _ _ _ fun z r hr => roundAt_full rom z ?_
    have := mem_roundsFrom.mp hr
    omega
  have part (y : Lanes Fe) :
      (roundsFrom 4 52).foldl (roundAt rom) y = (roundsFrom 4 52).foldl (partialRound rom) y :=
    List.foldl_ext _ _ _ fun z r hr => roundAt_partial rom z (mem_roundsFrom.mp hr)
  rw [rounds_split, List.foldl_append, List.foldl_append, full (.inl le_rfl), part,
    full (.inr le_rfl), permute]

/-- R143: the state after the initial external layer and the first `n` rounds. -/
def stateAfter (rom : Rom) (x : Lanes Fe) (n : Nat) : Lanes Fe :=
  ((List.finRange 56).take n).foldl (roundAt rom) (extLayer x)

theorem stateAfter_zero (rom : Rom) (x : Lanes Fe) : stateAfter rom x 0 = extLayer x := rfl

theorem stateAfter_succ (rom : Rom) (x : Lanes Fe) (r : Fin 56) :
    stateAfter rom x (r.val + 1) = roundAt rom (stateAfter rom x r.val) r := by
  have hr : r.val < (List.finRange 56).length := by simp
  rw [stateAfter, ← List.take_concat_get' _ _ hr, List.foldl_append, List.getElem_finRange]
  rfl

theorem stateAfter_last (rom : Rom) (x : Lanes Fe) : stateAfter rom x 56 = permute rom x := by
  rw [permute_eq_foldl, stateAfter, List.take_of_length_le (by simp)]

/-- Settles O35: the states are those of `stateAfter`. -/
theorem permuteIsTheSchedule : Obligations.PermuteIsTheSchedule := fun rom x =>
  ⟨stateAfter rom x, stateAfter_zero rom x, stateAfter_succ rom x, (stateAfter_last rom x).symm⟩

/-! ## Stepping through the permutation (R149) -/

/-- R146: where a round is due, PSTEP makes that round of the schedule. -/
theorem exec_pstep_round {s : State} {r : Fin 56} (hc : cfgOk s.rom = true)
    (hr : s.ridx.toNat = r.val) (hp : s.phase = phaseOf r.val) :
    exec .pstep s = .next (succeed (advance s r (roundAt s.rom s.st r))) := by
  obtain ⟨full1, part, full2, -⟩ := phaseOf_spec r.val
  by_cases hf : r.val < 4 ∨ 52 ≤ r.val
  · rw [roundAt_full _ _ hf]
    exact exec_pstep_full hc hr (hp ▸ hf.imp full1.mpr fun h => full2.mpr ⟨h, r.isLt⟩)
  · rw [roundAt_partial _ _ (by omega)]
    exact exec_pstep_part hc hr (hp.trans (part.mpr (by omega)))

theorem issueAll_cons {i : Instr} {is : List Instr} {s t : State} (h : issue i s = .next t) :
    issueAll (i :: is) s = issueAll is t := by
  simp only [issueAll, h]

/-- The state that PSTART on IN = `x` and `n + 1` PSTEPs leave, from `s`. -/
def steppedState (s : State) (x : Lanes Fe) (n : Nat) : State :=
  succeed { s with cmd := encode .pstep, herr := false, st := stateAfter s.rom x n,
                   phase := phaseOf n, ridx := BitVec.ofNat 8 n }

theorem issue_pstep_steppedState {s : State} (hc : cfgOk s.rom = true) (x : Lanes Fe)
    (r : Fin 56) :
    issue .pstep (steppedState s x r.val) = .next (steppedState s x (r.val + 1)) := by
  have h := exec_pstep_round (s := accept (encode .pstep) (steppedState s x r.val)) hc
    (ridx_ofNat_toNat r.isLt.le) rfl
  rw [issue, h]
  simp only [steppedState, stateAfter_succ]
  rfl

theorem issueAll_pstep_steppedState {s : State} (hc : cfgOk s.rom = true) (x : Lanes Fe)
    (k n : Nat) (hn : n + k ≤ 56) :
    issueAll (List.replicate k .pstep) (steppedState s x n) = .next (steppedState s x (n + k)) := by
  induction k generalizing n with
  | zero => rfl
  | succ k ih =>
    rw [List.replicate_succ, issueAll_cons (issue_pstep_steppedState hc x ⟨n, by omega⟩),
      ih (n + 1) (by omega), Nat.add_right_comm]
    rfl

/-- The state that PSTART on IN = `x` leaves, from `s`. -/
def loadedState (s : State) (x : Lanes Fe) : State :=
  succeed { s with cmd := encode .pstart, herr := false, st := x, phase := .init, ridx := 0 }

theorem issue_pstart {s : State} (hc : cfgOk s.rom = true)
    (hcanon : ∀ k : Fin 8, (s.inReg.get k).toNat < F) :
    issue .pstart s
      = .next (loadedState s (Lanes.ofFn fun k => Fe.ofNat (s.inReg.get k).toNat)) :=
  (exec_operands8 (exec_pstart (accept (encode .pstart) s)) hc).1 hcanon

theorem issue_pstep_loadedState {s : State} (hc : cfgOk s.rom = true) (x : Lanes Fe) :
    issue .pstep (loadedState s x) = .next (steppedState s x 0) :=
  exec_pstep_init (s := accept (encode .pstep) (loadedState s x)) hc rfl

/-- PERMUTE leaves what 57 PSTEPs leave, but for its own word in CMD. -/
theorem issue_permute {s : State} (hc : cfgOk s.rom = true)
    (hcanon : ∀ k : Fin 8, (s.inReg.get k).toNat < F) :
    issue .permute s
      = .next { steppedState s (Lanes.ofFn fun k => Fe.ofNat (s.inReg.get k).toNat) 56 with
                  cmd := encode .permute } := by
  simp only [steppedState, stateAfter_last]
  exact (exec_operands8 (exec_permute (accept (encode .permute) s)) hc).1 hcanon

/-- Settles O37: PSTART loads IN, the first PSTEP makes the external layer, the next 56 make the
rounds, and in DONE no round is due. -/
theorem steppingEqualsPermute : Obligations.SteppingEqualsPermute := by
  intro s hc hcanon
  refine ⟨_, _, ?_, issue_permute hc hcanon, rfl, rfl, rfl, rfl, ?_⟩
  · rw [issueAll_cons (issue_pstart hc hcanon), List.replicate_succ,
      issueAll_cons (issue_pstep_loadedState hc _)]
    exact issueAll_pstep_steppedState hc _ 56 0 le_rfl
  · exact exec_pstep_idle_done hc (.inr rfl)

/-! ## When the permutation is a bijection (R151) -/

theorem finite_lanesFe : Finite (Lanes Fe) := Finite.of_injective residues residues_injective

/-- On a finite type a composition is a bijection exactly when both parts are. -/
theorem bijective_comp_iff_of_finite {α : Type} [Finite α] {f g : α → α} :
    Function.Bijective (f ∘ g) ↔ Function.Bijective f ∧ Function.Bijective g := by
  refine ⟨fun h => ?_, fun ⟨hf, hg⟩ => hf.comp hg⟩
  have hg : Function.Bijective g := Finite.injective_iff_bijective.mp h.injective.of_comp
  exact ⟨(Function.Bijective.of_comp_iff f hg).mp h, hg⟩

/-- On a finite type a loop is a bijection exactly when each of its turns is. -/
theorem bijective_foldl_iff_of_finite {α ι : Type} [Finite α] {f : α → ι → α} (l : List ι) :
    Function.Bijective (fun x => l.foldl f x) ↔ ∀ i ∈ l, Function.Bijective fun x => f x i := by
  induction l with
  | nil => exact iff_of_true Function.bijective_id (List.forall_mem_nil _)
  | cons i l ih =>
    have hcomp : (fun x => (i :: l).foldl f x) = (fun x => l.foldl f x) ∘ fun x => f x i := rfl
    rw [hcomp, bijective_comp_iff_of_finite, ih, List.forall_mem_cons, and_comm]

theorem sbox_add_romFe_injective (c : U256) :
    Function.Injective fun x => sbox (add x (romFe c)) := by
  intro x y h
  have hadd : add x (romFe c) = add y (romFe c) := sboxIsABijection.injective h
  apply residue_injective
  simpa using congrArg residue hadd

theorem fullRound_bijective (rom : Rom) (r : Fin 56) :
    Function.Bijective fun x => fullRound rom x r := by
  have := finite_lanesFe
  refine externalLayerIsABijection.comp (Finite.injective_iff_bijective.mp fun x y h => ?_)
  refine Lanes.ext_get fun k => sbox_add_romFe_injective ((rom.rc[r]).get k) ?_
  simpa only [Lanes.get_zipWith] using congrArg (Lanes.get · k) h

/-- R142: what a partial round does before the internal layer. -/
def sboxLane0 (c : U256) (x : Lanes Fe) : Lanes Fe := { x with l0 := sbox (add x.l0 (romFe c)) }

theorem partialRound_eq_comp (rom : Rom) (r : Fin 56) :
    (fun x => partialRound rom x r) = intLayer rom.d ∘ sboxLane0 rom.rc[r].l0 := rfl

theorem sboxLane0_injective (c : U256) : Function.Injective (sboxLane0 c) := by
  intro x y h
  cases x
  cases y
  simp only [sboxLane0, Lanes.mk.injEq] at h ⊢
  exact h.imp_left fun h0 => sbox_add_romFe_injective c h0

theorem partialRound_bijective_iff (rom : Rom) (r : Fin 56) :
    (Function.Bijective fun x => partialRound rom x r) ↔ Function.Bijective (intLayer rom.d) := by
  have := finite_lanesFe
  rw [partialRound_eq_comp, Function.Bijective.of_comp_iff]
  exact Finite.injective_iff_bijective.mp (sboxLane0_injective _)

theorem permute_eq_comp (rom : Rom) :
    permute rom = (fun x => (List.finRange 56).foldl (roundAt rom) x) ∘ extLayer := by
  funext x
  rw [permute_eq_foldl, Function.comp_apply]

/-- Settles O39: on finitely many vectors the permutation is a bijection exactly when each of its
rounds is; a full round always is one, and round 4 is partial. -/
theorem permuteIsABijectionIffIntLayerIs : Obligations.PermuteIsABijectionIffIntLayerIs := by
  intro rom
  have := finite_lanesFe
  rw [permute_eq_comp, Function.Bijective.of_comp_iff _ externalLayerIsABijection,
    bijective_foldl_iff_of_finite]
  refine ⟨fun h => ?_, fun h r _ => ?_⟩
  · have h4 := h 4 (List.mem_finRange 4)
    simp only [roundAt_partial rom _ (r := 4) (by decide)] at h4
    exact (partialRound_bijective_iff rom 4).mp h4
  · by_cases hr : r.val < 4 ∨ 52 ≤ r.val
    · simpa only [roundAt_full rom _ hr] using fullRound_bijective rom r
    · simpa only [roundAt_partial rom _ (by omega : 4 ≤ r.val ∧ r.val < 52)] using
        (partialRound_bijective_iff rom r).mpr h

end Sys2Proof.Machine

namespace Sys2Proof.Machine

/-! ## HASH (R171, R172) -/

/-- R171. -/
theorem exec_hash (s : State) :
    exec .hash s
      = .next (complete s (hashOperands s) fun x =>
          { s with st := permute s.rom x, fres := (permute s.rom x).l0, phase := .done,
                   ridx := 56 }) := rfl

/-- Seven checks in a row, with the same value for lane 7, read nothing but IN0..IN6. -/
theorem operands7_congr {s t : State} {last : Except CmdError Fe}
    (h : ∀ k : Fin 8, k.val < 7 → s.inReg.get k = t.inReg.get k) :
    operands7 s last = operands7 t last := by
  have hop : ∀ k : Fin 8, k.val < 7 → operand s k = operand t k :=
    fun k hk => operand_congr (h k hk)
  simp only [operands7, hop 0 (by decide), hop 1 (by decide), hop 2 (by decide), hop 3 (by decide),
    hop 4 (by decide), hop 5 (by decide), hop 6 (by decide)]

/-- The configuration and the checked operands alone decide how a completion ends: with the same
of both, two completions write the same operands or report the same error. -/
theorem complete_same_end {α : Type} {s t : State} (hrom : s.rom = t.rom)
    (ops : Except CmdError α) (write write' : α → State) :
    (∃ a, complete s ops write = succeed (write a) ∧ complete t ops write' = succeed (write' a)) ∨
    ∃ e, complete s ops write = raise e s ∧ complete t ops write' = raise e t := by
  obtain ⟨hc, a, rfl, hs⟩ | ⟨hc, e, rfl, hs⟩ | ⟨hc, hs⟩ := complete_cases s ops write
  · exact .inl ⟨a, hs, complete_ok (hrom ▸ hc)⟩
  · exact .inr ⟨e, hs, complete_error (hrom ▸ hc)⟩
  · exact .inr ⟨_, hs, complete_badConfig (hrom ▸ hc)⟩

/-- Settles O41: the two states give HASH the same operands, so both permute the same lanes under
the same configuration or both report the same error. -/
theorem hashDependsOnlyOnItsInputs : Obligations.HashDependsOnlyOnItsInputs := by
  intro s1 s2 t1 t2 hrom hin h1 h2
  have hops : hashOperands s1 = hashOperands s2 := operands7_congr hin
  rw [exec_hash, hops] at h1
  rw [exec_hash] at h2
  injection h1 with h1
  injection h2 with h2
  obtain ⟨x, hs1, hs2⟩ | ⟨e, hs1, hs2⟩ := complete_same_end hrom (hashOperands s2) _ _
  · rw [← h1, ← h2, hs1, hs2]
    simp [hrom]
  · rw [← h1, ← h2, hs1, hs2]
    simp

/-- R7, R171: the number in lane 7 is TAG, which is below F. -/
theorem ofNat_tag : Fe.ofNat 129127208515966861312 = Config.tag := Fe.ofNat_self Config.tag

/-- Settles O40: the operands are IN0..IN6 and TAG (`operands7_ok`), or the lowest of IN0..IN6 that
is not canonical is reported (`operands7_error`); neither lemma asks anything of IN7. -/
theorem hashIsLaneZeroOfThePermutedInputs : Obligations.HashIsLaneZeroOfThePermutedInputs := by
  refine ⟨by decide, fun s hc => ⟨fun hcanon => ⟨_, rfl, ?_⟩, fun k hk hlow hbad => ?_⟩⟩
  · rw [exec_hash, hashOperands, operands7_ok hcanon, complete_ok hc, ofNat_tag]
    rfl
  · rw [exec_hash, hashOperands, operands7_error hk hlow hbad, complete_error hc]
    rfl

end Sys2Proof.Machine

namespace Sys2Proof.Machine

/-! ## The unit's turn between commands, and steps that answer (R61, R189, R198) -/

/-- Between commands the unit's turn is no change. -/
theorem unitStep_of_idle {s : State} (hb : s.busy = false) : unitStep s = .next s := by
  simp [unitStep, hb]

/-- Settles O6: the unit's turn takes itself off the inputs and changes nothing. -/
theorem stepHoldsTheIdleUnit : Obligations.StepHoldsTheIdleUnit := by
  intro s rest hm hb
  rw [step_of_unitMoves hm]
  exact unitStep_of_idle (s := { s with inputs := rest }) hb

/-- Settles O53: at a scheduler position of R31 the unit's turn answers (`unitStep_answers`), and
host accesses and reset answer in every state. -/
theorem wellFormedStatesNeverStop : Obligations.WellFormedStatesNeverStop := by
  rintro s ⟨hs, -⟩
  cases he : s.inputs with
  | nil => exact step_of_unitMoves (.inl ⟨he, rfl⟩) ▸ unitStep_answers hs
  | cons i rest =>
    cases i with
    | unitTurn => exact step_of_unitMoves (.inr he) ▸ unitStep_answers hs
    | read idx => exact ⟨_, step_of_read he⟩
    | write idx v => exact ⟨_, step_of_write he⟩
    | reset => exact ⟨_, step_of_reset he⟩

/-! ## Illegal words (R84, R185) -/

/-- A busy unit over a word that is no command reports it, if the configuration is in order. -/
theorem unitStep_illegal {s : State} (hb : s.busy = true) (hc : cfgOk s.rom = true)
    (hi : ∀ i, decode s.cmd ≠ .ok i) : unitStep s = .next (raise .illegalCommand s) := by
  cases hd : decode s.cmd with
  | ok i => exact absurd hd (hi i)
  | error e => rw [unitStep_of_illegal hb hd, completeIllegal, complete_error hc]

/-- Settles O4: the reserved words are those that decode to no command (O3), and the unit reports
them (`unitStep_illegal`). -/
theorem illegalCommandIsReported : Obligations.IllegalCommandIsReported := by
  intro s rest hm hb hc hw
  rw [step_of_unitMoves hm]
  exact unitStep_illegal (s := { s with inputs := rest }) hb hc
    ((illegalWordsAreTheReservedOnes s.cmd).mpr hw)

/-! ## CFGOK = 0 (R183) -/

/-- A round that PSTEP answers at all is a completion, so it reports the configuration first. -/
theorem stepRound_badConfig {s t : State} {round : Rom → Lanes Fe → Fin 56 → Lanes Fe}
    (hc : cfgOk s.rom = false) (h : stepRound s round = .next t) :
    t = raise .configurationError s := by
  unfold stepRound at h
  split at h
  · injection h with h
    rw [← h, complete_badConfig hc]
  · cases h

theorem execPstep_badConfig {s t : State} (hc : cfgOk s.rom = false)
    (h : execPstep s = .next t) : t = raise .configurationError s := by
  unfold execPstep at h
  cases hp : s.phase with
  | idle | init | done =>
    simp only [hp, complete_badConfig hc] at h
    injection h with h
    exact h.symm
  | full1 | part | full2 =>
    simp only [hp] at h
    exact stepRound_badConfig hc h

/-- Every command checks the configuration before anything else. -/
theorem exec_badConfig {i : Instr} {s t : State} (hc : cfgOk s.rom = false)
    (h : exec i s = .next t) : t = raise .configurationError s := by
  cases i with
  | pstep => exact execPstep_badConfig hc h
  | fadd | fmul | sbox | extl | intl | pstart | permute | hash =>
    injection h with h
    exact h.symm.trans (complete_badConfig hc)

/-- So does the completion of a word that is no command. -/
theorem unitStep_badConfig {s t : State} (hb : s.busy = true) (hc : cfgOk s.rom = false)
    (h : unitStep s = .next t) : t = raise .configurationError s := by
  cases hd : decode s.cmd with
  | ok i => exact exec_badConfig hc (unitStep_of_decode hb hd ▸ h)
  | error e =>
    rw [unitStep_of_illegal hb hd, completeIllegal, complete_badConfig hc] at h
    injection h with h
    exact h.symm

/-- Settles O44: the unit's turn answers (`unitStep_answers`), and with CFGOK = 0 there is only one
answer (`unitStep_badConfig`). -/
theorem badConfigurationFailsEveryCommand : Obligations.BadConfigurationFailsEveryCommand := by
  intro s rest hs hm hb hc
  obtain ⟨t, ht⟩ := unitStep_answers (s := { s with inputs := rest }) hs
  rw [step_of_unitMoves hm, ht, unitStep_badConfig (s := { s with inputs := rest }) hb hc ht]
  rfl

/-! ## Operands that are not canonical (R184) -/

theorem operands2_error {s : State} {k : Fin 8} (hk : k.val < 2)
    (hlow : ∀ j : Fin 8, j.val < k.val → (s.inReg.get j).toNat < F)
    (hbad : F ≤ (s.inReg.get k).toNat) : operands2 s = .error (.invalidInput k) :=
  match k, hk, hlow, hbad with
  | 0, _, _, hbad => operands2_error_zero hbad
  | 1, _, hlow, hbad => operands2_error_one (hlow 0 (by decide)) hbad

/-- A completion whose checks fail reports the error they give. -/
theorem complete_fails {α : Type} {s : State} {ops : Except CmdError α} {e : CmdError}
    {write : α → State} (hc : cfgOk s.rom = true) (ho : ops = .error e) :
    Host.Outcome.next (φ := Fault) (ρ := Refusal) (complete s ops write) = .next (raise e s) := by
  rw [ho, complete_error hc]

/-- Settles O45: each command's checks stop at the lowest lane that fails. -/
theorem invalidInputReportsTheLowestLane : Obligations.InvalidInputReportsTheLowestLane := by
  intro i k s hk hc hlow hbad
  cases i with
  | fadd | fmul => exact complete_fails hc (operands2_error hk hlow hbad)
  | sbox =>
    have h0 : k = 0 := Fin.ext (Nat.lt_one_iff.mp hk)
    subst h0
    exact complete_fails hc (operand_error hbad)
  | extl | intl | pstart | permute => exact complete_fails hc (operands8_error hlow hbad)
  | hash => exact complete_fails hc (operands7_error hk hlow hbad)
  | pstep => exact absurd hk (Nat.not_lt_zero _)

/-! ## Which error a command reports (R181, R182) -/

/-- Settles O46: a unit's turn that reports an error is `raise` of one of the four. -/
theorem failedCommandHasNoOtherEffect : Obligations.FailedCommandHasNoOtherEffect := by
  intro s t rest hm hb ht herr
  rw [step_of_unitMoves hm] at ht
  obtain ⟨hidle, -⟩ | ⟨-, -, i, u, -, rfl, -⟩ | ⟨-, e, rfl⟩ := unitStep_cases ht
  · exact Bool.noConfusion (hb.symm.trans hidle)
  · cases herr
  · refine ⟨rfl, ?_⟩
    cases e with
    | invalidInput k => exact .inl ⟨rfl, k, rfl⟩
    | configurationError => exact .inr (.inl ⟨rfl, rfl⟩)
    | illegalCommand => exact .inr (.inr (.inl ⟨rfl, rfl⟩))
    | sequenceError => exact .inr (.inr (.inr ⟨rfl, rfl⟩))

/-- Where some lane that a command checks is not canonical, there is a lowest such lane. -/
theorem exists_lowest_bad_lane {i : Instr} {s : State}
    (h : ¬∀ k : Fin 8, k.val < checkedLanes i → (s.inReg.get k).toNat < F) :
    ∃ k : Fin 8, k.val < checkedLanes i ∧
      (∀ j : Fin 8, j.val < k.val → (s.inReg.get j).toNat < F) ∧ F ≤ (s.inReg.get k).toNat := by
  simp only [not_forall, not_lt] at h
  obtain ⟨m, hm, hmbad⟩ := h
  obtain ⟨k, hbad, hmin⟩ :=
    wellFounded_lt.has_min {k : Fin 8 | F ≤ (s.inReg.get k).toNat} ⟨m, hmbad⟩
  refine ⟨k, lt_of_le_of_lt (not_lt.mp (hmin m hmbad)) hm, fun j hj => ?_, hbad⟩
  exact Nat.lt_of_not_le fun hj' => hmin j hj' hj

/-- The one check of a command other than PSTEP is that of its operands: it fails at a lane that is
not canonical, or succeeds. -/
theorem exec_failure_ecode_of_ne_pstep {i : Instr} {s t : State} (hi : i ≠ .pstep)
    (hc : cfgOk s.rom = true) (h : exec i s = .next t) (herr : t.err = true) :
    t.ecode = .invalidInput := by
  by_cases hcanon : ∀ k : Fin 8, k.val < checkedLanes i → (s.inReg.get k).toNat < F
  · obtain ⟨u, hu, -, hok, -⟩ := commandsCompleteOnCanonicalOperands i s hi hc hcanon
    obtain rfl : u = t := Host.Outcome.next.inj (hu.symm.trans h)
    exact Bool.noConfusion (hok.symm.trans herr)
  · obtain ⟨k, hk, hlow, hbad⟩ := exists_lowest_bad_lane hcanon
    rw [invalidInputReportsTheLowestLane i k s hk hc hlow hbad] at h
    rw [← Host.Outcome.next.inj h]

/-- A round that is due does not fail. -/
theorem stepRound_err {s t : State} {round : Rom → Lanes Fe → Fin 56 → Lanes Fe}
    (hc : cfgOk s.rom = true) (h : stepRound s round = .next t) : t.err = false := by
  unfold stepRound at h
  split at h
  · rw [complete_ok hc] at h
    rw [← Host.Outcome.next.inj h]
    rfl
  · cases h

/-- The one check of PSTEP is that a transition is due (R186). -/
theorem exec_pstep_failure_ecode {s t : State} (hc : cfgOk s.rom = true)
    (h : exec .pstep s = .next t) (herr : t.err = true) : t.ecode = .sequenceError := by
  have due {round : Rom → Lanes Fe → Fin 56 → Lanes Fe} (hr : stepRound s round = .next t) :
      t.ecode = .sequenceError := Bool.noConfusion ((stepRound_err hc hr).symm.trans herr)
  cases hp : s.phase with
  | idle | done =>
    rw [exec_pstep_idle_done hc (by simp [hp])] at h
    rw [← Host.Outcome.next.inj h, raise_ecode, errorCode]
  | init =>
    rw [exec_pstep_init hc hp] at h
    rw [← Host.Outcome.next.inj h] at herr
    cases herr
  | full1 | part | full2 =>
    change execPstep s = _ at h
    simp only [execPstep, hp] at h
    exact due h

/-- The opcodes of R83 are 1 to 9, and 7 is PSTEP's. -/
theorem opcode_toNat_spec (i : Instr) :
    1 ≤ (opcode i).toNat ∧ (opcode i).toNat ≤ 9 ∧ ((opcode i).toNat = 7 ↔ i = .pstep) := by
  cases i <;> decide

/-- R182: the order of the errors of the unit's turn. -/
theorem unitStep_failure_ecode {s t : State} (hb : s.busy = true) (h : unitStep s = .next t)
    (herr : t.err = true) :
    t.ecode =
      if cfgOk s.rom = false then .configurationError
      else if s.cmd.toNat = 0 ∨ 9 < s.cmd.toNat then .illegalCommand
      else if s.cmd.toNat = 7 then .sequenceError
      else .invalidInput := by
  cases hc : cfgOk s.rom with
  | false => rw [unitStep_badConfig hb hc h, if_pos rfl, raise_ecode, errorCode]
  | true =>
    rw [if_neg Bool.noConfusion]
    by_cases hi : ∃ i, decode s.cmd = .ok i
    · obtain ⟨i, hi⟩ := hi
      rw [unitStep_of_decode hb hi] at h
      obtain ⟨hlo, hhi, h7⟩ := opcode_toNat_spec i
      rw [eq_encode_of_decode hi, encode_toNat, if_neg (by omega)]
      by_cases hp : i = .pstep
      · subst hp
        rw [if_pos (h7.mpr rfl)]
        exact exec_pstep_failure_ecode hc h herr
      · rw [if_neg (mt h7.mp hp)]
        exact exec_failure_ecode_of_ne_pstep hp hc h herr
    · have hi : ∀ i, decode s.cmd ≠ .ok i := not_exists.mp hi
      have hw := (illegalWordsAreTheReservedOnes s.cmd).mp hi
      rw [unitStep_illegal hb hc hi] at h
      rw [if_pos (by omega), ← Host.Outcome.next.inj h, raise_ecode, errorCode]

/-- Settles O47: the unit's turn checks in the order of R182 (`unitStep_failure_ecode`). -/
theorem errorsAreReportedInOrder : Obligations.ErrorsAreReportedInOrder := by
  intro s t rest hm hb ht herr
  rw [step_of_unitMoves hm] at ht
  exact unitStep_failure_ecode (s := { s with inputs := rest }) hb ht herr

end Sys2Proof.Machine

namespace Sys2Proof.Machine

/-! ## Reads that depend on the draw, and reads after reset (R39, R204, R207) -/

/-- Settles O11: while busy a result register reads as the draw (`memRead_result_busy`), and the
registers at all other indices are read without it. -/
theorem onlyResultReadsWhileBusyAreFree : Obligations.OnlyResultReadsWhileBusyAreFree := by
  refine fun s idx => ⟨fun hb hi v => memRead_result_busy v hb hi, fun h d d' => ?_⟩
  have idle (hi : (8 ≤ idx.toNat ∧ idx.toNat ≤ 0x010) ∨ idx.toNat = 0x013) : s.busy = false :=
    h.resolve_right (not_not_intro hi)
  cases hr : regAt idx with
  | none => simp only [memRead, hr]
  | some r =>
    have hidx := congrArg BitVec.toNat (regIndex_of_regAt hr)
    simp only [memRead, hr]
    cases r with
    | inp _ | cmd | status | params | rc _ _ | d _ => rfl
    | st k =>
      rw [regIndex_st] at hidx
      simp [readReg, idle (by omega)]
    | fres => simp [readReg, idle (.inl (by rw [← hidx]; decide))]
    | sched => simp [readReg, idle (.inr (by rw [← hidx]; decide))]

/-- R39: after reset STATUS holds CFGOK alone. -/
theorem statusWord_resetWith (rom : Rom) :
    statusWord (State.resetWith rom) = if cfgOk rom = true then 0x10 else 0 := by
  cases hc : cfgOk rom <;> simp [statusWord, ecodeNum, hc]

/-- R39: after reset SCHED is (IDLE, 0). -/
theorem schedWord_resetWith (rom : Rom) : schedWord (State.resetWith rom) = 0 := by
  simp [schedWord, phaseNum]

/-- Settles O19: the registers below STATUS and SCHED one after the other, then STATUS. -/
theorem registersReadZeroAfterReset : Obligations.RegistersReadZeroAfterReset := by
  refine fun rom draw idx => ⟨fun h => ?_, fun h => ?_⟩
  · obtain h | ⟨hlo, hhi⟩ | h | h | h : idx.toNat < 8 ∨ (8 ≤ idx.toNat ∧ idx.toNat - 8 < 8) ∨
        idx.toNat = 0x010 ∨ idx.toNat = 0x011 ∨ idx.toNat = 0x013 := by omega
    · rw [memRead, regAt_inp h]
      exact Lanes.get_const 0 _
    · rw [memRead, regAt_st hlo hhi]
      exact congrArg feWord (Lanes.get_const _ _)
    · exact memRead_of_toNat .fres draw _ h
    · exact memRead_of_toNat .cmd draw _ h
    · rw [memRead_of_toNat .sched draw _ h]
      exact schedWord_resetWith rom
  · rw [memRead_of_toNat .status draw _ h]
    exact statusWord_resetWith rom

/-! ## Runs that take in all inputs (R210) -/

/-- The unit's turn takes in no input of its own. -/
theorem unitStep_inputs {s t : State} (h : unitStep s = .next t) : t.inputs = s.inputs := by
  obtain ⟨-, rfl⟩ | ⟨-, -, i, u, -, rfl, hw⟩ | ⟨-, e, rfl⟩ := unitStep_cases h
  · rfl
  · rw [succeed_inputs, hw.eq_frame]
  · rfl

/-- Settles O56, by induction on the inputs: each step answers a well-formed state that has one input
less, and the last turn is the unit's, which ends with BUSY = 0. -/
theorem everyRunCompletesItsCommands : Obligations.EveryRunCompletesItsCommands := by
  intro s hok
  induction hin : s.inputs generalizing s with
  | nil =>
    obtain ⟨t, ht⟩ := unitStep_answers (s := { s with inputs := [] }) hok.1
    have hstep : step s = .next t := (step_of_unitMoves (.inl ⟨hin, rfl⟩)).trans ht
    exact ⟨t, run_succ hstep, unitStep_inputs ht, unitStep_busy ht⟩
  | cons i rest ih =>
    obtain ⟨t, ht⟩ := wellFormedStatesNeverStop s hok
    obtain ⟨u, hrun, hu⟩ := ih t (stepKeepsTheStateWellFormed s t hok ht) (step_inputs hin ht)
    exact ⟨u, (run_succ ht).trans hrun, hu⟩

/-! ## A hash through the host port (R208) -/

/-- A run goes on from where its first part ends. -/
theorem run_add {m : Nat} {s t : State} (h : run m s = .next t) (n : Nat) :
    run (m + n) s = run n t := by
  induction m generalizing s with
  | zero =>
    injection h with h
    rw [Nat.zero_add, h]
  | succ m ih =>
    cases hs : step s with
    | next u =>
      rw [Nat.add_right_comm, run_succ hs]
      exact ih (run_succ hs ▸ h)
    | fault r => exact nomatch r
    | refused r => simp [run, hs] at h

/-- The host writes the operands `ws`, each a lane and its value, to IN. -/
def operandWrites (ws : List (Fin 8 × U256)) : List Input :=
  ws.map fun w => .write (regIndex (.inp w.1)) w.2

/-- Lane vector `x` after the operands `ws`, first one first, are placed in their lanes. -/
def placeOperands (x : Lanes U256) (ws : List (Fin 8 × U256)) : Lanes U256 :=
  ws.foldl (fun x w => x.set w.1 w.2) x

/-- The state `s` with the lanes `x` in IN, and `rest` still to reach the unit. -/
def withOperands (rest : List Input) (x : Lanes U256) (s : State) : State :=
  { s with inputs := rest, inReg := x }

/-- Between commands, operand writes place the operands in IN. -/
theorem run_operandWrites {ws : List (Fin 8 × U256)} {rest : List Input} {s : State}
    (hb : s.busy = false) (he : s.inputs = operandWrites ws ++ rest) :
    run ws.length s = .next (withOperands rest (placeOperands s.inReg ws) s) := by
  induction ws generalizing s with
  | nil => rw [show rest = s.inputs from he.symm]; rfl
  | cons w ws ih =>
    have hstep : step s =
        .next (withOperands (operandWrites ws ++ rest) (s.inReg.set w.1 w.2) s) := by
      rw [step_of_write he, memWrite, regAt_regIndex]
      simp [hb, withOperands, operandWrites]
    exact (run_succ hstep).trans (ih hb rfl)

/-- Between commands, a write of a command's word to CMD and the unit's turn issue the command. -/
theorem run_issue {i : Instr} {rest : List Input} {s t : State} (hb : s.busy = false)
    (he : s.inputs = .write 0x011 (encode i) :: .unitTurn :: rest)
    (h : issue i { s with inputs := rest } = .next t) : run 2 s = .next t := by
  refine run_two (step_of_write he) ?_
  rw [memWrite_cmd_idle (s := { s with inputs := .unitTurn :: rest }) _ hb]
  exact (unitStep_of_decode (s := accept (encode i) { s with inputs := rest }) rfl
    (decode_encode i)).trans h

theorem memRead_fres_idle (draw : U256) {s : State} (hb : s.busy = false) :
    memRead draw 0x010 s = feWord s.fres := by
  rw [memRead, regAt_fres]
  simp [readReg, hb]

/-- R26: with CFGOK = 1 and no dropped write, STATUS after a success is CFGOK and DONE. -/
theorem statusWord_succeed {s : State} (hc : cfgOk s.rom = true) (hh : s.herr = false) :
    statusWord (succeed s) = 0x12 := by
  simp [statusWord, ecodeNum, hc, hh]

/-- After a success the host reads it in STATUS, then the result in FRES. -/
theorem run_read_succeed {s : State} (hc : cfgOk s.rom = true) (hh : s.herr = false)
    (he : s.inputs = [.read 0x012, .read 0x010]) :
    run 2 (succeed s) =
      .next { succeed s with inputs := [], reads := feWord s.fres :: 0x12 :: s.reads,
                             draws := s.draws + 2 } := by
  rw [run_two (step_of_read (s := succeed s) he) (step_of_read rfl), ← statusWord_succeed hc hh,
    hostRead, memRead_fres_idle _ rfl, hostRead, memRead_status]
  rfl

/-- R171: the lanes that HASH permutes, with `x` in IN. -/
def hashLanes (x : Lanes U256) : Lanes Fe :=
  { x.map fun v => Fe.ofNat v.toNat with l7 := Config.tag }

theorem hashOperands_ok {s : State}
    (h : ∀ k : Fin 8, k.val < 7 → (s.inReg.get k).toNat < F) :
    hashOperands s = .ok (hashLanes s.inReg) :=
  operands7_ok h

/-- HASH over canonical IN0..IN6, from acceptance to completion: the digest in FRES, and the host's
side as it was. -/
theorem issue_hash {s : State} (hc : cfgOk s.rom = true)
    (hcanon : ∀ k : Fin 8, k.val < 7 → (s.inReg.get k).toNat < F) :
    ∃ t, issue .hash s = .next (succeed t) ∧ t.rom = s.rom ∧ t.herr = false ∧
      t.inputs = s.inputs ∧ t.reads = s.reads ∧
      t.fres = (permute s.rom (hashLanes s.inReg)).l0 := by
  rw [issue, exec_hash, hashOperands_ok (s := accept (encode .hash) s) hcanon,
    complete_ok (s := accept (encode .hash) s) hc]
  exact ⟨_, rfl, rfl, rfl, rfl, rfl, rfl⟩

/-- With canonical values in IN0..IN6, the host issues HASH and reads its report and the digest. -/
theorem run_hash {s : State} (hc : cfgOk s.rom = true) (hb : s.busy = false)
    (hcanon : ∀ k : Fin 8, k.val < 7 → (s.inReg.get k).toNat < F)
    (he : s.inputs = [.write 0x011 0x09, .unitTurn, .read 0x012, .read 0x010]) :
    ∃ t, run 4 s = .next t ∧ t.inputs = [] ∧ t.busy = false ∧
      t.reads = feWord (permute s.rom (hashLanes s.inReg)).l0 :: 0x12 :: s.reads := by
  obtain ⟨t, hissue, hrom, hherr, hin, hreads, hfres⟩ :=
    issue_hash (s := { s with inputs := [.read 0x012, .read 0x010] }) hc hcanon
  have hread := run_read_succeed (hrom ▸ hc) hherr hin
  refine ⟨_, (run_add (run_issue (i := .hash) hb he hissue) 2).trans hread, rfl, rfl, ?_⟩
  rw [hfres, hreads]

/-- Settles O42: seven writes place the inputs in IN (`run_operandWrites`), then the command is
issued and its results are read (`run_hash`). -/
theorem oneHashThroughThePort : Obligations.OneHashThroughThePort := by
  intro s m0 m1 m2 m3 m4 m5 m6 hc hb h0 h1 h2 h3 h4 h5 h6 he
  have hplaced := run_operandWrites (s := s)
    (ws := [(0, m0), (1, m1), (2, m2), (3, m3), (4, m4), (5, m5), (6, m6)]) hb he
  have hcanon : ∀ k : Fin 8, k.val < 7 →
      ((⟨m0, m1, m2, m3, m4, m5, m6, s.inReg.l7⟩ : Lanes U256).get k).toNat < F := by
    intro k hk
    fin_cases k
    exacts [h0, h1, h2, h3, h4, h5, h6, absurd hk (by decide)]
  obtain ⟨t, hrun, hin, hidle, hreads⟩ := run_hash
    (s := withOperands [.write 0x011 0x09, .unitTurn, .read 0x012, .read 0x010]
      ⟨m0, m1, m2, m3, m4, m5, m6, s.inReg.l7⟩ s) hc hb hcanon rfl
  refine ⟨t, (run_add hplaced 4).trans hrun, hin, hidle, ?_⟩
  rw [hreads, ofNat_tag]
  rfl

end Sys2Proof.Machine
